-- ==== Sys2Proof/Word.lean ====
section
/-! DEFINITION. The value types of the CHIP-8 core (spec 00_scope.md R9, R10; 10_state.md R22 to R39). -/

namespace Sys2Proof

/-- A byte: a general register, a timer, one memory cell (R22, R30, R31, R60). -/
abbrev Byte := BitVec 8

/-- Sixteen bits: PC, I, a stack entry, an instruction word (R24, R26, R29, R92). -/
abbrev Word := BitVec 16

/-- A 4-bit field of an instruction word (R14, R90). -/
abbrev Nibble := BitVec 4

/-- The 12-bit address operand `nnn` (R90, R93). -/
abbrev Addr12 := BitVec 12

/-- The number of a general register V0 to VF, or of a key 0 to F (R22, R33): an index, never arithmetic. -/
abbrev Index16 := Fin 16

/-- The register number that a 4-bit field selects (R93). -/
def Nibble.toIndex (b : Nibble) : Index16 := ⟨b.toNat, b.isLt⟩

/-- The 4-bit field that names a register (R93). -/
def Index16.toNibble (x : Index16) : Nibble := BitVec.ofNat 4 x.val

/-- VF, the flag register, is V[15] (R23). -/
def vF : Index16 := 15

/-- A flag's value in VF: 1 or 0 (R147 to R151, R193). -/
def Byte.ofFlag (b : Bool) : Byte := if b then 1#8 else 0#8

end Sys2Proof
end

