-- ==== Sys2Proof/Config.lean ====
section
/-! DEFINITION. What is fixed for this core (spec 00_scope.md R7) and the values the spec leaves open. -/

namespace Sys2Proof

/-- `MEM_SIZE` (R7, R60). -/
def Config.memSize : Nat := 4096

/-- `PROG_BASE`: the program's load address and PC's reset value (R7, R24, R274). -/
def Config.progBase : Nat := 0x200

/-- `PROG_MAX` = 4096 − 512 (R7, R274). -/
def Config.progMax : Nat := 3584

/-- `STACK_DEPTH` (R7, R26). -/
def Config.stackDepth : Nat := 16

/-- `GLYPH_BYTES` (R7, R67). -/
def Config.glyphBytes : Nat := 5

/-- `FONT_BYTES` (R7, R66). -/
def Config.fontBytes : Nat := 80

/-- `TICK_HZ`: the nominal tick rate, which no rule depends on (R7, R251). -/
def Config.tickHz : Nat := 60

/-- The glyphs of digits 0 to 3 (R66's table, a row a digit). -/
def Config.glyphs0 : List Byte :=
  [0xF0, 0x90, 0x90, 0x90, 0xF0] ++
  [0x20, 0x60, 0x20, 0x20, 0x70] ++
  [0xF0, 0x10, 0xF0, 0x80, 0xF0] ++
  [0xF0, 0x10, 0xF0, 0x10, 0xF0]

/-- The glyphs of digits 4 to 7. -/
def Config.glyphs4 : List Byte :=
  [0x90, 0x90, 0xF0, 0x10, 0x10] ++
  [0xF0, 0x80, 0xF0, 0x10, 0xF0] ++
  [0xF0, 0x80, 0xF0, 0x90, 0xF0] ++
  [0xF0, 0x10, 0x20, 0x40, 0x40]

/-- The glyphs of digits 8 to B. -/
def Config.glyphs8 : List Byte :=
  [0xF0, 0x90, 0xF0, 0x90, 0xF0] ++
  [0xF0, 0x90, 0xF0, 0x10, 0xF0] ++
  [0xF0, 0x90, 0xF0, 0x90, 0x90] ++
  [0xE0, 0x90, 0xE0, 0x90, 0xE0]

/-- The glyphs of digits C to F. -/
def Config.glyphsC : List Byte :=
  [0xF0, 0x80, 0x80, 0x80, 0xF0] ++
  [0xE0, 0x90, 0x90, 0x90, 0xE0] ++
  [0xF0, 0x80, 0xF0, 0x80, 0xF0] ++
  [0xF0, 0x80, 0xF0, 0x80, 0x80]

/-- The parameter `FONT` at the default R66 gives it (PRESUMED: the spec's own mark on those bytes is "from general
knowledge, not in source"; log entry 2). A statement about glyph bytes is about this name, not about the bytes. -/
def Config.font : List Byte := Config.glyphs0 ++ Config.glyphs4 ++ Config.glyphs8 ++ Config.glyphsC

/-- The random source's byte for a Cxkk step whose `rnd` port holds no supplied byte (R152, R258): a FREE VALUE, applied
to the number of draws so far. No body, so no proof knows a value of it (log entry 3). -/
opaque Config.freeRnd : Nat → Byte

/-- `PACE_DELAY` (R7, R284): recorded as a free value, and nothing reads it (log entry 10). -/
opaque Config.paceDelay : Nat

end Sys2Proof
end

