-- ==== Sys2Proof/Machine/State.lean ====
section
/-! DEFINITION. The machine's state, its reasons to stop, the moves of its agents, and the state after reset
(spec 10_state.md R20 to R39, 60_exceptions.md R230 to R263, 70_reset_and_hazards.md R270 to R281). -/

namespace Sys2Proof.Machine

/-- The 4096-byte store (R60) as the cells that differ from the reset contents, addresses strictly rising.
`Memory.unlisted` (Ops.lean) says what an unlisted address reads as, and `Memory.wf` that the form holds. -/
abbrev Memory := List Host.Cell

/-- The 64×32 grid of 1-bit cells (R32): row r is a 64-bit vector, and bit c of it is the cell `DISP[c][r]`. -/
abbrev Display := Vector (BitVec 64) 32

/-- The fault causes (R231). -/
inductive Cause where
  /-- Code 0: no fault. -/
  | none
  /-- Code 1: the word matches no row of the opcode map. -/
  | unknownOpcode
  /-- Code 2: CALL with 16 entries held. -/
  | stackOverflow
  /-- Code 3: RET with no entry held. -/
  | stackUnderflow
  /-- Code 4: PC + 1 ≥ 4096. -/
  | fetchOob
  /-- Code 5: a data access that reaches an address ≥ 4096. -/
  | dataOob
  /-- Code 6: a key number ≥ 16. -/
  | keyIndex
  deriving DecidableEq, Repr

/-- One step of one agent (R8, R259). The executor, the timer driver, the input source, the renderer and the
loader/controller each have theirs. -/
inductive Move where
  /-- The executor runs one instruction (R277). -/
  | execute
  /-- The timer driver's 60 Hz tick (R250). -/
  | tick
  /-- The input source sets or clears a key flag (R254). -/
  | keySet (k : Index16) (pressed : Bool)
  /-- The input source notifies a new key press (R255). -/
  | keyPress (k : Index16)
  /-- The renderer reads the display (R257). -/
  | render
  /-- The controller resets the core (R270). -/
  | reset
  /-- The loader copies a program to 0x200 (R274). -/
  | load (bytes : List Byte)
  /-- The controller stops the run (R281). -/
  | stop
  deriving DecidableEq, Repr

/-- Why the machine stops with a fault. -/
inductive Fault where
  /-- Raised by the executor's step, never by an instruction, when HALT = 1: "the executor has no step" (R232, R279).
  It carries the halt report (R235). Safe: no step exists there. -/
  | halted (cause : Cause) (fpc fword faddr : Word)
  deriving DecidableEq, Repr

/-- Why the machine gives a step no meaning. -/
inductive Refusal where
  /-- Raised by `exec` for an instruction that has no meaning yet. Safe. None is left. -/
  | notModelled (mnemonic : String)
  /-- Raised by every agent's step after `stop`: "No step of any agent follows it" (R281). Safe. -/
  | runStopped
  /-- Raised by `load` with more than 3584 bytes: the size error, after which "the machine is not run" (R274, R275). Safe. -/
  | loadTooLarge
  /-- Raised by `load` after the first executor step since reset: "No load happens" there (R276). Safe. -/
  | loadAfterStart
  deriving DecidableEq, Repr

/-- Everything the machine holds. The first group is what the spec gives the core; `started` and `stopped` are the phases
of a run that its rules speak of; the last group is the environment's side of the ports (log entries 3 and 4). -/
structure State where
  /-- V0 to VF (R22, R23). -/
  v : Vector Byte 16
  /-- PC, the address of the instruction being executed (R24). -/
  pc : Word
  /-- The number of call-stack entries held: SP + 1, which R26 allows a model to store for SP. -/
  depth : Fin 17
  /-- STACK[0..15] (R26). -/
  stack : Vector Word 16
  /-- I (R29). -/
  i : Word
  /-- DT, the delay timer (R30). -/
  dt : Byte
  /-- ST, the sound timer (R31). -/
  st : Byte
  /-- DISP (R32). -/
  disp : Display
  /-- KEYS (R33). -/
  keys : Vector Bool 16
  /-- WAIT: NONE, or the register that a waiting Fx0A writes (R34). -/
  wait : Option Index16
  /-- HALT (R35). -/
  halt : Bool
  /-- FCAUSE (R35); `Cause.code` gives its 4-bit code. -/
  fcause : Cause
  /-- FPC (R35). -/
  fpc : Word
  /-- FWORD (R35). -/
  fword : Word
  /-- FADDR (R35). -/
  faddr : Word
  /-- M (R60). -/
  mem : Memory
  /-- Whether the executor has taken a step since reset, after which no load happens (R276). -/
  started : Bool
  /-- Whether the run has been stopped (R279, R281). -/
  stopped : Bool
  /-- The environment's schedule: which agent moves next, the earliest first; the executor moves when it is empty (R238). -/
  sched : List Move
  /-- The bytes the host has supplied at the `rnd` port and no Cxkk has drawn yet, the earliest first (R258, R259). -/
  rndIn : List Byte
  /-- How many draws were made beyond the supplied bytes: the argument of `Config.freeRnd` (R152). -/
  draws : Nat
  deriving DecidableEq, Repr

/-- The state after reset (R270, R271), with nothing scheduled and nothing supplied by the environment. -/
def State.reset : State where
  v := Vector.replicate 16 0x00#8
  pc := 0x0200#16
  depth := 0
  stack := Vector.replicate 16 0x0000#16
  i := 0x0000#16
  dt := 0x00#8
  st := 0x00#8
  disp := Vector.replicate 32 0#64
  keys := Vector.replicate 16 false
  wait := none
  halt := false
  fcause := .none
  fpc := 0x0000#16
  fword := 0x0000#16
  faddr := 0x0000#16
  mem := []
  started := false
  stopped := false
  sched := []
  rndIn := []
  draws := 0

end Sys2Proof.Machine
end

