-- ==== Sys2Proof/Machine/Flags.lean ====
section
/-! DEFINITION. The flags VF receives and the results they go with (spec 41_alu.md R140, R147 to R151, R153). Carry and
borrow are decided on the exact integers, results are taken mod 256. -/

namespace Sys2Proof.Machine

/-- `(a + b) mod 256` (R142, R147). -/
def sum8 (a b : Byte) : Byte := BitVec.ofNat 8 ((a.toNat + b.toNat) % 256)

/-- `(a − b) mod 256` (R148, R150). -/
def diff8 (a b : Byte) : Byte := BitVec.ofInt 8 (((a.toNat : Int) - (b.toNat : Int)) % 256)

/-- `(s > 255) ? 1 : 0` on the pre-truncation sum (R147). -/
def carryFlag (a b : Byte) : Byte := Byte.ofFlag (decide (a.toNat + b.toNat > 255))

/-- `(a >= b) ? 1 : 0` (R148). -/
def notBorrowFlag (a b : Byte) : Byte := Byte.ofFlag (decide (a.toNat ≥ b.toNat))

/-- `(a >= b) ? 0 : 1`: SUBN's flag, which is 0 at equality (R150). -/
def subnFlag (a b : Byte) : Byte := if a.toNat ≥ b.toNat then 0#8 else 1#8

/-- `a & 1`: the bit SHR shifts out (R149). -/
def shrFlag (a : Byte) : Byte := a &&& 1#8

/-- `(a >> 7) & 1`: the bit SHL shifts out (R151). -/
def shlFlag (a : Byte) : Byte := (a >>> 7) &&& 1#8

end Sys2Proof.Machine
end

