-- ==== Sys2Proof/Syntax.lean ====
section
/-! DEFINITION. The 34 instructions of spec/opcode_table.json, one constructor a row (30_encoding.md R96). -/

namespace Sys2Proof

/-- An instruction with its operands (R90, R93, R94). A register field is an `Index16`, `kk` a byte, `nnn` a 12-bit
address and `n` a row count, which `Instr.wf` bounds. SHR and SHL keep the field y, which they ignore (R99), so that
an instruction determines its word. -/
inductive Instr where
  /-- `00E0` CLS (R192). -/
  | cls
  /-- `00EE` RET (R122). -/
  | ret
  /-- `1nnn` JP nnn (R123). -/
  | jp (nnn : Addr12)
  /-- `2nnn` CALL nnn (R124). -/
  | call (nnn : Addr12)
  /-- `3xkk` SE Vx, kk (R125). -/
  | seVxKk (x : Index16) (kk : Byte)
  /-- `4xkk` SNE Vx, kk (R126). -/
  | sneVxKk (x : Index16) (kk : Byte)
  /-- `5xy0` SE Vx, Vy (R127). -/
  | seVxVy (x y : Index16)
  /-- `6xkk` LD Vx, kk (R141). -/
  | ldVxKk (x : Index16) (kk : Byte)
  /-- `7xkk` ADD Vx, kk (R142). -/
  | addVxKk (x : Index16) (kk : Byte)
  /-- `8xy0` LD Vx, Vy (R143). -/
  | ldVxVy (x y : Index16)
  /-- `8xy1` OR Vx, Vy (R144). -/
  | orVxVy (x y : Index16)
  /-- `8xy2` AND Vx, Vy (R145). -/
  | andVxVy (x y : Index16)
  /-- `8xy3` XOR Vx, Vy (R146). -/
  | xorVxVy (x y : Index16)
  /-- `8xy4` ADD Vx, Vy (R147). -/
  | addVxVy (x y : Index16)
  /-- `8xy5` SUB Vx, Vy (R148). -/
  | subVxVy (x y : Index16)
  /-- `8xy6` SHR Vx (R149); y is ignored (R99). -/
  | shrVx (x y : Index16)
  /-- `8xy7` SUBN Vx, Vy (R150). -/
  | subnVxVy (x y : Index16)
  /-- `8xyE` SHL Vx (R151); y is ignored (R99). -/
  | shlVx (x y : Index16)
  /-- `9xy0` SNE Vx, Vy (R128). -/
  | sneVxVy (x y : Index16)
  /-- `Annn` LD I, nnn (R171). -/
  | ldI (nnn : Addr12)
  /-- `Bnnn` JP V0, nnn (R129). -/
  | jpV0 (nnn : Addr12)
  /-- `Cxkk` RND Vx, kk (R152). -/
  | rnd (x : Index16) (kk : Byte)
  /-- `Dxyn` DRW Vx, Vy, n (R193). -/
  | drw (x y : Index16) (n : Nat)
  /-- `Ex9E` SKP Vx (R211). -/
  | skp (x : Index16)
  /-- `ExA1` SKNP Vx (R212). -/
  | sknp (x : Index16)
  /-- `Fx07` LD Vx, DT (R213). -/
  | ldVxDt (x : Index16)
  /-- `Fx0A` LD Vx, K (R214, R215). -/
  | ldVxK (x : Index16)
  /-- `Fx15` LD DT, Vx (R216). -/
  | ldDtVx (x : Index16)
  /-- `Fx18` LD ST, Vx (R217). -/
  | ldStVx (x : Index16)
  /-- `Fx1E` ADD I, Vx (R172). -/
  | addIVx (x : Index16)
  /-- `Fx29` LD F, Vx (R173). -/
  | ldFVx (x : Index16)
  /-- `Fx33` LD B, Vx (R174). -/
  | ldBVx (x : Index16)
  /-- `Fx55` LD [I], Vx (R175). -/
  | ldMemVx (x : Index16)
  /-- `Fx65` LD Vx, [I] (R176). -/
  | ldVxMem (x : Index16)
  deriving DecidableEq, Repr

end Sys2Proof
end

