-- ==== Sys2Proof/Decode.lean ====
section
/-! DEFINITION. The decoder and the encoder of spec 30_encoding.md (R90 to R99): fields, opcode map, unknown words. -/

namespace Sys2Proof

/-- Why bytes are no instruction. -/
inductive DecodeError where
  /-- R97: the word matches no row of the opcode map. -/
  | unknownOpcode (w : Word)
  /-- Fewer than the two bytes that R92 gives every instruction. -/
  | truncated
  deriving DecidableEq, Repr

/-- `nibble0`, the opcode family: w[15:12] (R90). -/
def familyOf (w : Word) : Nibble := w.extractLsb' 12 4
/-- `x` = `nibble1`: w[11:8] (R90). -/
def xOf (w : Word) : Nibble := w.extractLsb' 8 4
/-- `y` = `nibble2`: w[7:4] (R90). -/
def yOf (w : Word) : Nibble := w.extractLsb' 4 4
/-- `n` = `nibble3`: w[3:0] (R90). -/
def nOf (w : Word) : Nibble := w.extractLsb' 0 4
/-- `kk`: w[7:0] (R90). -/
def kkOf (w : Word) : Byte := w.extractLsb' 0 8
/-- `nnn`: w[11:0] (R90). -/
def nnnOf (w : Word) : Addr12 := w.extractLsb' 0 12

/-- Family 0 is matched on the whole word (R94 format FIX, R95). -/
def decodeFamily0 (w : Word) : Except DecodeError Instr :=
  if w = 0x00E0#16 then .ok .cls
  else if w = 0x00EE#16 then .ok .ret
  else .error (.unknownOpcode w)

/-- Family 5: only nibble3 = 0 (R95, 90_conflicts.md C4). -/
def decodeFamily5 (w : Word) (x y : Index16) : Nat → Except DecodeError Instr
  | 0x0 => .ok (.seVxVy x y)
  | _ => .error (.unknownOpcode w)

/-- Family 8: the sub-opcode is nibble3 (R95, R96). -/
def decodeFamily8 (w : Word) (x y : Index16) : Nat → Except DecodeError Instr
  | 0x0 => .ok (.ldVxVy x y)
  | 0x1 => .ok (.orVxVy x y)
  | 0x2 => .ok (.andVxVy x y)
  | 0x3 => .ok (.xorVxVy x y)
  | 0x4 => .ok (.addVxVy x y)
  | 0x5 => .ok (.subVxVy x y)
  | 0x6 => .ok (.shrVx x y)
  | 0x7 => .ok (.subnVxVy x y)
  | 0xE => .ok (.shlVx x y)
  | _ => .error (.unknownOpcode w)

/-- Family 9: only nibble3 = 0 (R95, 90_conflicts.md C4). -/
def decodeFamily9 (w : Word) (x y : Index16) : Nat → Except DecodeError Instr
  | 0x0 => .ok (.sneVxVy x y)
  | _ => .error (.unknownOpcode w)

/-- Family E: the sub-opcode is the low byte (R95, R96). -/
def decodeFamilyE (w : Word) (x : Index16) : Nat → Except DecodeError Instr
  | 0x9E => .ok (.skp x)
  | 0xA1 => .ok (.sknp x)
  | _ => .error (.unknownOpcode w)

/-- Family F: the sub-opcode is the low byte (R95, R96). -/
def decodeFamilyF (w : Word) (x : Index16) : Nat → Except DecodeError Instr
  | 0x07 => .ok (.ldVxDt x)
  | 0x0A => .ok (.ldVxK x)
  | 0x15 => .ok (.ldDtVx x)
  | 0x18 => .ok (.ldStVx x)
  | 0x1E => .ok (.addIVx x)
  | 0x29 => .ok (.ldFVx x)
  | 0x33 => .ok (.ldBVx x)
  | 0x55 => .ok (.ldMemVx x)
  | 0x65 => .ok (.ldVxMem x)
  | _ => .error (.unknownOpcode w)

/-- The opcode map (R95, R96): dispatch on the family nibble, then on the family's sub-opcode. Total on all 65536 words;
a word of no row is rejected by name (R97). -/
def decodeWord (w : Word) : Except DecodeError Instr :=
  match (familyOf w).toNat with
  | 0x0 => decodeFamily0 w
  | 0x1 => .ok (.jp (nnnOf w))
  | 0x2 => .ok (.call (nnnOf w))
  | 0x3 => .ok (.seVxKk (xOf w).toIndex (kkOf w))
  | 0x4 => .ok (.sneVxKk (xOf w).toIndex (kkOf w))
  | 0x5 => decodeFamily5 w (xOf w).toIndex (yOf w).toIndex (nOf w).toNat
  | 0x6 => .ok (.ldVxKk (xOf w).toIndex (kkOf w))
  | 0x7 => .ok (.addVxKk (xOf w).toIndex (kkOf w))
  | 0x8 => decodeFamily8 w (xOf w).toIndex (yOf w).toIndex (nOf w).toNat
  | 0x9 => decodeFamily9 w (xOf w).toIndex (yOf w).toIndex (nOf w).toNat
  | 0xA => .ok (.ldI (nnnOf w))
  | 0xB => .ok (.jpV0 (nnnOf w))
  | 0xC => .ok (.rnd (xOf w).toIndex (kkOf w))
  | 0xD => .ok (.drw (xOf w).toIndex (yOf w).toIndex (nOf w).toNat)
  | 0xE => decodeFamilyE w (xOf w).toIndex (kkOf w).toNat
  | _ => decodeFamilyF w (xOf w).toIndex (kkOf w).toNat

/-- An instruction word from its two bytes: the byte at the lower address is the high one (R64, R65). -/
def wordOfBytes (hi lo : Byte) : Word := hi ++ lo

/-- The byte of a word at the lower address (R65). -/
def highByte (w : Word) : Byte := w.extractLsb' 8 8

/-- The byte of a word at the higher address (R65). -/
def lowByte (w : Word) : Byte := w.extractLsb' 0 8

/-- Decodes the first instruction of any bytes, with the bytes after it (R92: always two bytes). -/
def decodeBytes : List Byte → Except DecodeError (Instr × List Byte)
  | hi :: lo :: rest =>
    match decodeWord (wordOfBytes hi lo) with
    | .ok i => .ok (i, rest)
    | .error e => .error e
  | _ => .error .truncated

/-- The host's view of the decoder: a row's bits, numbered as spec/opcode_table.json numbers them (R9: bit 0 is the
least significant of the 16-bit word), laid out big-endian (R65) and decoded; bits above `nbits` are 0. -/
def decodeTableWord (nbits w : Nat) : Option Instr :=
  let word : Word := BitVec.ofNat 16 (w % 2 ^ nbits)
  match decodeBytes [highByte word, lowByte word] with
  | .ok (i, _) => some i
  | .error _ => none

/-- Format NNN (R94): `ffff nnnn nnnn nnnn`. -/
def wordNNN (f : Nibble) (nnn : Addr12) : Word := f ++ nnn
/-- Format XKK (R94): `ffff xxxx kkkk kkkk`; format X is the same layout with a fixed low byte. -/
def wordXKK (f : Nibble) (x : Index16) (kk : Byte) : Word := f ++ x.toNibble ++ kk
/-- Formats XY and XYN (R94): `ffff xxxx yyyy ssss`. -/
def wordXYN (f : Nibble) (x y : Index16) (n : Nibble) : Word := f ++ x.toNibble ++ y.toNibble ++ n

/-- The word of an instruction (R94, R96). -/
def encodeWord : Instr → Word
  | .cls => 0x00E0#16
  | .ret => 0x00EE#16
  | .jp nnn => wordNNN 0x1#4 nnn
  | .call nnn => wordNNN 0x2#4 nnn
  | .seVxKk x kk => wordXKK 0x3#4 x kk
  | .sneVxKk x kk => wordXKK 0x4#4 x kk
  | .seVxVy x y => wordXYN 0x5#4 x y 0x0#4
  | .ldVxKk x kk => wordXKK 0x6#4 x kk
  | .addVxKk x kk => wordXKK 0x7#4 x kk
  | .ldVxVy x y => wordXYN 0x8#4 x y 0x0#4
  | .orVxVy x y => wordXYN 0x8#4 x y 0x1#4
  | .andVxVy x y => wordXYN 0x8#4 x y 0x2#4
  | .xorVxVy x y => wordXYN 0x8#4 x y 0x3#4
  | .addVxVy x y => wordXYN 0x8#4 x y 0x4#4
  | .subVxVy x y => wordXYN 0x8#4 x y 0x5#4
  | .shrVx x y => wordXYN 0x8#4 x y 0x6#4
  | .subnVxVy x y => wordXYN 0x8#4 x y 0x7#4
  | .shlVx x y => wordXYN 0x8#4 x y 0xE#4
  | .sneVxVy x y => wordXYN 0x9#4 x y 0x0#4
  | .ldI nnn => wordNNN 0xA#4 nnn
  | .jpV0 nnn => wordNNN 0xB#4 nnn
  | .rnd x kk => wordXKK 0xC#4 x kk
  | .drw x y n => wordXYN 0xD#4 x y (BitVec.ofNat 4 n)
  | .skp x => wordXKK 0xE#4 x 0x9E#8
  | .sknp x => wordXKK 0xE#4 x 0xA1#8
  | .ldVxDt x => wordXKK 0xF#4 x 0x07#8
  | .ldVxK x => wordXKK 0xF#4 x 0x0A#8
  | .ldDtVx x => wordXKK 0xF#4 x 0x15#8
  | .ldStVx x => wordXKK 0xF#4 x 0x18#8
  | .addIVx x => wordXKK 0xF#4 x 0x1E#8
  | .ldFVx x => wordXKK 0xF#4 x 0x29#8
  | .ldBVx x => wordXKK 0xF#4 x 0x33#8
  | .ldMemVx x => wordXKK 0xF#4 x 0x55#8
  | .ldVxMem x => wordXKK 0xF#4 x 0x65#8

/-- The word's bytes in address order (R65). -/
def encode (i : Instr) : List Byte := [highByte (encodeWord i), lowByte (encodeWord i)]

/-- R94's fixed-bit mask of the instruction's row. -/
def Instr.rowMask : Instr → Word
  | .cls => 0xFFFF#16
  | .ret => 0xFFFF#16
  | .jp _ => 0xF000#16
  | .call _ => 0xF000#16
  | .seVxKk _ _ => 0xF000#16
  | .sneVxKk _ _ => 0xF000#16
  | .seVxVy _ _ => 0xF00F#16
  | .ldVxKk _ _ => 0xF000#16
  | .addVxKk _ _ => 0xF000#16
  | .ldVxVy _ _ => 0xF00F#16
  | .orVxVy _ _ => 0xF00F#16
  | .andVxVy _ _ => 0xF00F#16
  | .xorVxVy _ _ => 0xF00F#16
  | .addVxVy _ _ => 0xF00F#16
  | .subVxVy _ _ => 0xF00F#16
  | .shrVx _ _ => 0xF00F#16
  | .subnVxVy _ _ => 0xF00F#16
  | .shlVx _ _ => 0xF00F#16
  | .sneVxVy _ _ => 0xF00F#16
  | .ldI _ => 0xF000#16
  | .jpV0 _ => 0xF000#16
  | .rnd _ _ => 0xF000#16
  | .drw _ _ _ => 0xF000#16
  | .skp _ => 0xF0FF#16
  | .sknp _ => 0xF0FF#16
  | .ldVxDt _ => 0xF0FF#16
  | .ldVxK _ => 0xF0FF#16
  | .ldDtVx _ => 0xF0FF#16
  | .ldStVx _ => 0xF0FF#16
  | .addIVx _ => 0xF0FF#16
  | .ldFVx _ => 0xF0FF#16
  | .ldBVx _ => 0xF0FF#16
  | .ldMemVx _ => 0xF0FF#16
  | .ldVxMem _ => 0xF0FF#16

/-- The fixed bits of the instruction's row: `match` of spec/opcode_table.json (R95). -/
def Instr.rowMatch : Instr → Word
  | .cls => 0x00E0#16
  | .ret => 0x00EE#16
  | .jp _ => 0x1000#16
  | .call _ => 0x2000#16
  | .seVxKk _ _ => 0x3000#16
  | .sneVxKk _ _ => 0x4000#16
  | .seVxVy _ _ => 0x5000#16
  | .ldVxKk _ _ => 0x6000#16
  | .addVxKk _ _ => 0x7000#16
  | .ldVxVy _ _ => 0x8000#16
  | .orVxVy _ _ => 0x8001#16
  | .andVxVy _ _ => 0x8002#16
  | .xorVxVy _ _ => 0x8003#16
  | .addVxVy _ _ => 0x8004#16
  | .subVxVy _ _ => 0x8005#16
  | .shrVx _ _ => 0x8006#16
  | .subnVxVy _ _ => 0x8007#16
  | .shlVx _ _ => 0x800E#16
  | .sneVxVy _ _ => 0x9000#16
  | .ldI _ => 0xA000#16
  | .jpV0 _ => 0xB000#16
  | .rnd _ _ => 0xC000#16
  | .drw _ _ _ => 0xD000#16
  | .skp _ => 0xE09E#16
  | .sknp _ => 0xE0A1#16
  | .ldVxDt _ => 0xF007#16
  | .ldVxK _ => 0xF00A#16
  | .ldDtVx _ => 0xF015#16
  | .ldStVx _ => 0xF018#16
  | .addIVx _ => 0xF01E#16
  | .ldFVx _ => 0xF029#16
  | .ldBVx _ => 0xF033#16
  | .ldMemVx _ => 0xF055#16
  | .ldVxMem _ => 0xF065#16

/-- The opcode map's rows as (mask, match), in the table's order (R94, R96). -/
def opcodeRows : List (Word × Word) :=
  [(0xFFFF#16, 0x00E0#16), (0xFFFF#16, 0x00EE#16), (0xF000#16, 0x1000#16), (0xF000#16, 0x2000#16),
   (0xF000#16, 0x3000#16), (0xF000#16, 0x4000#16), (0xF00F#16, 0x5000#16), (0xF000#16, 0x6000#16)] ++
  [(0xF000#16, 0x7000#16), (0xF00F#16, 0x8000#16), (0xF00F#16, 0x8001#16), (0xF00F#16, 0x8002#16),
   (0xF00F#16, 0x8003#16), (0xF00F#16, 0x8004#16), (0xF00F#16, 0x8005#16), (0xF00F#16, 0x8006#16),
   (0xF00F#16, 0x8007#16), (0xF00F#16, 0x800E#16)] ++
  [(0xF00F#16, 0x9000#16), (0xF000#16, 0xA000#16), (0xF000#16, 0xB000#16), (0xF000#16, 0xC000#16),
   (0xF000#16, 0xD000#16), (0xF0FF#16, 0xE09E#16), (0xF0FF#16, 0xE0A1#16)] ++
  [(0xF0FF#16, 0xF007#16), (0xF0FF#16, 0xF00A#16), (0xF0FF#16, 0xF015#16), (0xF0FF#16, 0xF018#16),
   (0xF0FF#16, 0xF01E#16), (0xF0FF#16, 0xF029#16), (0xF0FF#16, 0xF033#16), (0xF0FF#16, 0xF055#16),
   (0xF0FF#16, 0xF065#16)]

end Sys2Proof
end

