-- ==== Sys2Proof/Machine/Operands.lean ====
section
/-! DEFINITION. The operand forms: registers, immediates, data addresses and key numbers (spec 30_encoding.md R93,
20_memory.md R68, 42_index_memory.md R170, 44_keypad_timers.md R210). -/

namespace Sys2Proof.Machine

/-- V[x] (R22). -/
def State.reg (s : State) (x : Index16) : Byte := s.v[x]

/-- V[x] <- b (R22): none of the sixteen is hardwired. -/
def State.setReg (s : State) (x : Index16) (b : Byte) : State := { s with v := s.v.set x b }

/-- `zext_16(nnn)` (R10, R93). -/
def zextAddr (nnn : Addr12) : Word := nnn.setWidth 16

/-- `zext_16` of a byte (R10). -/
def zextByte (b : Byte) : Word := b.setWidth 16

/-- The exact data address I + k, with no wrap (R68, R170). -/
def State.dataAddr (s : State) (k : Nat) : Nat := s.i.toNat + k

/-- `CheckRange(a, len)` passes (R12, R68): no address of [a, a + len) is 4096 or more. -/
def inRange (a len : Nat) : Bool := decide (a + len ≤ Config.memSize)

/-- The lowest address ≥ 4096 of a range from `a` that reaches one (R68, R69). -/
def lowestOob (a : Nat) : Word := BitVec.ofNat 16 (max a Config.memSize)

/-- A register's value as a key number, which must be 0..15 (R210). -/
def keyNumber (a : Byte) : Option Index16 :=
  if h : a.toNat < 16 then some ⟨a.toNat, h⟩ else none

/-- The bytes V0..Vx (R175). -/
def State.regsTo (s : State) (x : Index16) : List Byte := s.v.toList.take (x.val + 1)

/-- Vx's three decimal digits: hundreds, tens, ones (R174). -/
def bcdDigits (a : Byte) : List Byte :=
  [BitVec.ofNat 8 (a.toNat / 100), BitVec.ofNat 8 (a.toNat / 10 % 10), BitVec.ofNat 8 (a.toNat % 10)]

/-- The address of digit a's font glyph, `5 × a`, unmasked (R67, R173). -/
def glyphAddr (a : Byte) : Word := BitVec.ofNat 16 (Config.glyphBytes * a.toNat)

end Sys2Proof.Machine
end

