-- ==== Sys2Proof/Machine/Ops.lean ====
section
/-! DEFINITION. The named operations over memory, PC, the call stack and the random source, and fault entry
(spec 10_state.md, 20_memory.md, 60_exceptions.md R230 to R236). -/

namespace Sys2Proof.Machine

/-- What an address reads as while no cell lists it: the reset contents, FONT at 0x000–0x04F and 0x00 above (R60, R63, R66). -/
def Memory.unlisted (a : Nat) : Byte := Config.font.getD a 0x00#8

/-- `M[a]` (R12, R71). Reading changes nothing. -/
def Memory.read : Memory → Nat → Byte
  | [], a => Memory.unlisted a
  | (k, b) :: m, a => if k = a then b else Memory.read m a

/-- A cell at the front of a memory whose addresses all lie above it; none where the byte is the unlisted one. -/
def Memory.consCell (a : Nat) (b : Byte) (m : Memory) : Memory :=
  if b = Memory.unlisted a then m else (a, b) :: m

/-- `M[a] <- b` (R12, R72), which keeps the canonical form. -/
def Memory.write : Memory → Nat → Byte → Memory
  | [], a, b => Memory.consCell a b []
  | (k, c) :: m, a, b =>
    if a < k then Memory.consCell a b ((k, c) :: m)
    else if a = k then Memory.consCell a b m
    else (k, c) :: Memory.write m a b

/-- Bytes stored in ascending address order from `a` (R65). -/
def Memory.writeList : Memory → Nat → List Byte → Memory
  | m, _, [] => m
  | m, a, b :: bs => Memory.writeList (Memory.write m a b) (a + 1) bs

/-- The `len` bytes from `a` up (R65). -/
def Memory.readList (m : Memory) (a len : Nat) : List Byte :=
  (List.range len).map fun k => Memory.read m (a + k)

/-- Every cell's address is at least `lo` and below 4096, addresses strictly rise, and no cell holds the unlisted byte. -/
def Memory.wfFrom : Nat → Memory → Bool
  | _, [] => true
  | lo, (k, b) :: m =>
    decide (lo ≤ k) && decide (k < Config.memSize) && decide (b ≠ Memory.unlisted k) && Memory.wfFrom (k + 1) m

/-- The canonical form of memory: equal memories are equal lists. -/
def Memory.wf (m : Memory) : Bool := Memory.wfFrom 0 m

/-- The default advance, `PC <- PC + 2` (R24). -/
def State.advance (s : State) : State := { s with pc := s.pc + 2#16 }

/-- A control transfer: PC is set and not advanced (R24, R120). -/
def State.jump (s : State) (target : Word) : State := { s with pc := target }

/-- A skip instruction: `PC <- PC + 4` where its condition holds, else `PC <- PC + 2` (R121). -/
def State.skipIf (s : State) (c : Bool) : State := { s with pc := if c then s.pc + 4#16 else s.pc + 2#16 }

/-- SP: the index of the top entry, −1 where the stack is empty (R26). -/
def State.sp (s : State) : Int := (s.depth.val : Int) - 1

/-- `push(v)` (R27); none where SP = 15. -/
def State.push (s : State) (w : Word) : Option State :=
  if h : s.depth.val < 16 then
    some { s with stack := s.stack.set s.depth.val w h, depth := ⟨s.depth.val + 1, by omega⟩ }
  else none

/-- `pop()` (R28): the top entry, and the state with SP lowered; the entry keeps its value. None where SP = −1. -/
def State.pop (s : State) : Option (Word × State) :=
  if h : 0 < s.depth.val then
    some (s.stack[s.depth.val - 1]'(by omega), { s with depth := ⟨s.depth.val - 1, by omega⟩ })
  else none

/-- `RND()` (R152, R258): the next byte supplied at the `rnd` port; where none was supplied, the free value of this draw. -/
def State.draw (s : State) : Byte × State :=
  match s.rndIn with
  | r :: rest => (r, { s with rndIn := rest })
  | [] => (Config.freeRnd s.draws, { s with draws := s.draws + 1 })

/-- FCAUSE's 4-bit code (R231). -/
def Cause.code : Cause → Nibble
  | .none => 0
  | .unknownOpcode => 1
  | .stackOverflow => 2
  | .stackUnderflow => 3
  | .fetchOob => 4
  | .dataOob => 5
  | .keyIndex => 6

/-- R231's FWORD column: 0x0000 for a fetch fault, else the word. -/
def faultWord (c : Cause) (word : Word) : Word :=
  match c with
  | .fetchOob => 0x0000#16
  | .none | .unknownOpcode | .stackOverflow | .stackUnderflow | .dataOob | .keyIndex => word

/-- R231's FADDR column: the lowest out-of-range address for FETCH_OOB (from PC) and DATA_OOB (from I), else 0x0000. -/
def State.faultAddr (s : State) (c : Cause) : Word :=
  match c with
  | .fetchOob => lowestOob s.pc.toNat
  | .dataOob => lowestOob s.i.toNat
  | .none | .unknownOpcode | .stackOverflow | .stackUnderflow | .keyIndex => 0x0000#16

/-- Fault entry, `raise C(...)` (R232): HALT and the fault record are written, and all other state keeps its value
(R233). There is no return beside it: "No instruction returns from a fault", and only reset leaves the halted state
(R236; `State.applyReset` in Agents.lean). -/
def State.raise (s : State) (c : Cause) (word : Word) : State :=
  { s with halt := true, fcause := c, fpc := s.pc, fword := faultWord c word, faddr := s.faultAddr c }

end Sys2Proof.Machine
end

