-- ==== Sys2Proof/Machine/Compositor.lean ====
section
/-! DEFINITION. The display buffer and the XOR sprite compositor (spec 10_state.md R32, 43_display.md). -/

namespace Sys2Proof.Machine

/-- `DISP[c][r]` (R32). -/
def Display.cell (d : Display) (c : Fin 64) (r : Fin 32) : Bool := d[r].getLsbD c.val

/-- `DISP[c][r] <- DISP[c][r] ^ 1` (R190). -/
def Display.flip (d : Display) (c : Fin 64) (r : Fin 32) : Display :=
  d.set r (d[r] ^^^ (1#64 <<< c.val))

/-- Every cell 0 (R192). -/
def Display.clear : Display := Vector.replicate 32 0#64

/-- A draw under way: the buffer, and whether some cell has gone from 1 to 0 (R190, R193). -/
structure Canvas where
  /-- The buffer as drawn so far. -/
  disp : Display
  /-- Whether a collision has occurred. -/
  collide : Bool
  deriving DecidableEq, Repr

/-- The pixel of a row byte at column offset c: bit 7 is offset 0 (R191, PRESUMED: log entry 5). -/
def spriteBit (row : Byte) (c : Nat) : Bool := row.getLsbD (7 - c)

/-- One pixel of a draw: a 1 flips the cell at (X mod 64, Y mod 32) and collides where the cell was 1 (R190, R193). -/
def Canvas.drawPixel (k : Canvas) (x y : Nat) (bit : Bool) : Canvas :=
  if bit then
    { disp := k.disp.flip (Fin.ofNat 64 x) (Fin.ofNat 32 y)
      collide := k.collide || k.disp.cell (Fin.ofNat 64 x) (Fin.ofNat 32 y) }
  else k

/-- The first `cols` pixels of one sprite row, from column offset 0 up (R193's inner loop runs it with 8). -/
def Canvas.drawCols (k : Canvas) (x y : Nat) (row : Byte) : Nat → Canvas
  | 0 => k
  | cols + 1 => (k.drawCols x y row cols).drawPixel (x + cols) y (spriteBit row cols)

/-- The rows of a sprite, from row y down (R193's outer loop). -/
def Canvas.drawRows (k : Canvas) (x y : Nat) : List Byte → Canvas
  | [] => k
  | row :: rows => Canvas.drawRows (k.drawCols x y row 8) x (y + 1) rows

/-- `00E0` CLS (R192). -/
def execCls (s : State) : Host.Outcome State Fault Refusal :=
  .next ({ s with disp := Display.clear }).advance

/-- The state after a draw of these rows at (X0, Y0): the buffer, VF and PC (R193). -/
def State.drawn (s : State) (x y : Index16) (rows : List Byte) : State :=
  let k := Canvas.drawRows ⟨s.disp, false⟩ (s.reg x).toNat (s.reg y).toNat rows
  (({ s with disp := k.disp }).setReg vF (Byte.ofFlag k.collide)).advance

/-- `Dxyn` DRW Vx, Vy, n (R193): with n = 0 only VF and PC are written, and no memory is read. -/
def execDrw (x y : Index16) (n : Nat) (s : State) : Host.Outcome State Fault Refusal :=
  if n = 0 then .next (s.setReg vF 0x00#8).advance
  else if inRange s.i.toNat n then .next (s.drawn x y (s.mem.readList s.i.toNat n))
  else .next (s.raise .dataOob (encodeWord (.drw x y n)))

end Sys2Proof.Machine
end

