-- ==== Sys2Proof/Machine/Agents.lean ====
section
/-! DEFINITION. The agents beside the executor (timer driver, input source, renderer, loader and controller) and the
core's output ports (spec 60_exceptions.md R250 to R263, 70_reset_and_hazards.md R270 to R281). -/

namespace Sys2Proof.Machine

/-- A timer's count after a tick: one less, and never below 0 (R250, R252). -/
def countDown (t : Byte) : Byte := if t = 0x00#8 then t else t - 1#8

/-- The timer driver's step (R250); no effect in the halted state (R232). -/
def State.tick (s : State) : State :=
  if s.halt then s else { s with dt := countDown s.dt, st := countDown s.st }

/-- The input source's `key_set(k, b)` (R254). -/
def State.keySet (s : State) (k : Index16) (pressed : Bool) : State := { s with keys := s.keys.set k pressed }

/-- The byte that a key's number makes (R215: `V[x] <- k`). -/
def keyByte (k : Index16) : Byte := BitVec.ofNat 8 k.val

/-- The input source's `key_press(k)` (R255): completes a waiting Fx0A (R215), and is dropped otherwise. -/
def State.keyPress (s : State) (k : Index16) : State :=
  match s.wait with
  | some x => if s.halt then s else { (s.setReg x (keyByte k)).advance with wait := none }
  | none => s

/-- A new press of key k as R256 makes the input source deliver it: the flag, then its notification. -/
def pressMoves (k : Index16) : List Move := [.keySet k true, .keyPress k]

/-- The controller's `reset` (R270): every piece of core state gets its reset value. The schedule, the supplied random
bytes and the draw count are the environment's, and stay (R36; log entry 4). -/
def State.applyReset (s : State) : State :=
  { State.reset with sched := s.sched, rndIn := s.rndIn, draws := s.draws }

/-- The loader's `load(bytes)` (R274, R275): all or nothing, and only before the first executor step (R276). -/
def State.load (s : State) (bytes : List Byte) : Host.Outcome State Fault Refusal :=
  if bytes.length > Config.progMax then .refused .loadTooLarge
  else if s.started then .refused .loadAfterStart
  else .next { s with mem := s.mem.writeList Config.progBase bytes }

/-- The controller's `stop` (R281): it writes nothing but that the run has been stopped. -/
def State.stop (s : State) : State := { s with stopped := true }

/-- The port `disp_out`: the display snapshot the renderer reads between steps (R257, R259). -/
def State.dispOut (s : State) : Display := s.disp

/-- The renderer's step (R257): "A read changes no state." -/
def State.render (s : State) : State := s

/-- The port `status_out` (R235, R259). -/
structure StatusOut where
  /-- HALT -/
  halt : Bool
  /-- WAIT -/
  wait : Option Index16
  /-- FCAUSE's code -/
  fcause : Nibble
  /-- FPC -/
  fpc : Word
  /-- FWORD -/
  fword : Word
  /-- FADDR -/
  faddr : Word
  deriving DecidableEq, Repr

/-- What `status_out` carries (R259). -/
def State.statusOut (s : State) : StatusOut :=
  { halt := s.halt, wait := s.wait, fcause := s.fcause.code, fpc := s.fpc, fword := s.fword, faddr := s.faddr }

/-- The port `diag_out`, the optional diagnostics (R37, R259, R261). -/
structure DiagOut where
  /-- V0 to VF -/
  v : Vector Byte 16
  /-- I -/
  i : Word
  /-- PC -/
  pc : Word
  /-- SP -/
  sp : Int
  /-- STACK -/
  stack : Vector Word 16
  /-- DT -/
  dt : Byte
  /-- ST -/
  st : Byte
  deriving DecidableEq, Repr

/-- What `diag_out` carries (R259). -/
def State.diagOut (s : State) : DiagOut :=
  { v := s.v, i := s.i, pc := s.pc, sp := s.sp, stack := s.stack, dt := s.dt, st := s.st }

end Sys2Proof.Machine
end

