-- ==== Sys2Proof/Machine/Alu.lean ====
section
/-! DEFINITION. Register loads and the ALU (spec 41_alu.md). Operands are read at the start of the step, VF is written
before Vx, so with x = F the result is VF's final value (10_state.md R21, R140). -/

namespace Sys2Proof.Machine

/-- The shape of the instructions that only write Vx: `V[x] <- r; PC <- PC + 2`. -/
def State.finish (s : State) (x : Index16) (r : Byte) : State := (s.setReg x r).advance

/-- The shape of the instructions with a flag: `V[15] <- f; V[x] <- r; PC <- PC + 2` (R140). -/
def State.finishFlag (s : State) (x : Index16) (f r : Byte) : State := ((s.setReg vF f).setReg x r).advance

/-- `6xkk` LD Vx, kk (R141). -/
def execLdVxKk (x : Index16) (kk : Byte) (s : State) : Host.Outcome State Fault Refusal :=
  .next (s.finish x kk)

/-- `7xkk` ADD Vx, kk (R142): VF is not a carry here. -/
def execAddVxKk (x : Index16) (kk : Byte) (s : State) : Host.Outcome State Fault Refusal :=
  .next (s.finish x (sum8 (s.reg x) kk))

/-- `8xy0` LD Vx, Vy (R143). -/
def execLdVxVy (x y : Index16) (s : State) : Host.Outcome State Fault Refusal :=
  .next (s.finish x (s.reg y))

/-- `8xy1` OR Vx, Vy (R144). -/
def execOrVxVy (x y : Index16) (s : State) : Host.Outcome State Fault Refusal :=
  .next (s.finish x (s.reg x ||| s.reg y))

/-- `8xy2` AND Vx, Vy (R145). -/
def execAndVxVy (x y : Index16) (s : State) : Host.Outcome State Fault Refusal :=
  .next (s.finish x (s.reg x &&& s.reg y))

/-- `8xy3` XOR Vx, Vy (R146). -/
def execXorVxVy (x y : Index16) (s : State) : Host.Outcome State Fault Refusal :=
  .next (s.finish x (s.reg x ^^^ s.reg y))

/-- `8xy4` ADD Vx, Vy (R147). -/
def execAddVxVy (x y : Index16) (s : State) : Host.Outcome State Fault Refusal :=
  .next (s.finishFlag x (carryFlag (s.reg x) (s.reg y)) (sum8 (s.reg x) (s.reg y)))

/-- `8xy5` SUB Vx, Vy (R148). -/
def execSubVxVy (x y : Index16) (s : State) : Host.Outcome State Fault Refusal :=
  .next (s.finishFlag x (notBorrowFlag (s.reg x) (s.reg y)) (diff8 (s.reg x) (s.reg y)))

/-- `8xy6` SHR Vx (R149); y is ignored (R99). -/
def execShrVx (x _y : Index16) (s : State) : Host.Outcome State Fault Refusal :=
  .next (s.finishFlag x (shrFlag (s.reg x)) (s.reg x >>> 1))

/-- `8xy7` SUBN Vx, Vy (R150). -/
def execSubnVxVy (x y : Index16) (s : State) : Host.Outcome State Fault Refusal :=
  .next (s.finishFlag x (subnFlag (s.reg x) (s.reg y)) (diff8 (s.reg y) (s.reg x)))

/-- `8xyE` SHL Vx (R151); y is ignored (R99). -/
def execShlVx (x _y : Index16) (s : State) : Host.Outcome State Fault Refusal :=
  .next (s.finishFlag x (shlFlag (s.reg x)) (s.reg x <<< 1))

/-- `Cxkk` RND Vx, kk (R152): one fresh draw, masked. -/
def execRnd (x : Index16) (kk : Byte) (s : State) : Host.Outcome State Fault Refusal :=
  .next (s.draw.2.finish x (s.draw.1 &&& kk))

end Sys2Proof.Machine
end

