-- ==== Sys2Proof/Machine/Control.lean ====
section
/-! DEFINITION. Control transfer and skips (spec 40_control.md). -/

namespace Sys2Proof.Machine

/-- `00EE` RET (R122): the entry popped is the CALL's own address, so PC gets it plus 2 (90_conflicts.md C2). -/
def execRet (s : State) : Host.Outcome State Fault Refusal :=
  match s.pop with
  | some (t, s') => .next (s'.jump (t + 2#16))
  | none => .next (s.raise .stackUnderflow (encodeWord .ret))

/-- `1nnn` JP nnn (R123). -/
def execJp (nnn : Addr12) (s : State) : Host.Outcome State Fault Refusal :=
  .next (s.jump (zextAddr nnn))

/-- `2nnn` CALL nnn (R124): pushes this CALL's own address, then jumps. -/
def execCall (nnn : Addr12) (s : State) : Host.Outcome State Fault Refusal :=
  match s.push s.pc with
  | some s' => .next (s'.jump (zextAddr nnn))
  | none => .next (s.raise .stackOverflow (encodeWord (.call nnn)))

/-- `3xkk` SE Vx, kk (R125). -/
def execSeVxKk (x : Index16) (kk : Byte) (s : State) : Host.Outcome State Fault Refusal :=
  .next (s.skipIf (decide (s.reg x = kk)))

/-- `4xkk` SNE Vx, kk (R126). -/
def execSneVxKk (x : Index16) (kk : Byte) (s : State) : Host.Outcome State Fault Refusal :=
  .next (s.skipIf (decide (s.reg x ≠ kk)))

/-- `5xy0` SE Vx, Vy (R127). -/
def execSeVxVy (x y : Index16) (s : State) : Host.Outcome State Fault Refusal :=
  .next (s.skipIf (decide (s.reg x = s.reg y)))

/-- `9xy0` SNE Vx, Vy (R128). -/
def execSneVxVy (x y : Index16) (s : State) : Host.Outcome State Fault Refusal :=
  .next (s.skipIf (decide (s.reg x ≠ s.reg y)))

/-- `Bnnn` JP V0, nnn (R129): the sum is exact and does not wrap to 12 bits. -/
def execJpV0 (nnn : Addr12) (s : State) : Host.Outcome State Fault Refusal :=
  .next (s.jump (zextAddr nnn + zextByte (s.reg 0)))

end Sys2Proof.Machine
end

