-- ==== Sys2Proof/Machine/IndexMemory.lean ====
section
/-! DEFINITION. The index register, loads and stores (spec 42_index_memory.md). A range is checked whole before any
write, so a faulting access changes nothing (R170); none of them changes I through its access. -/

namespace Sys2Proof.Machine

/-- `Annn` LD I, nnn (R171). -/
def execLdI (nnn : Addr12) (s : State) : Host.Outcome State Fault Refusal :=
  .next ({ s with i := zextAddr nnn }).advance

/-- `Fx1E` ADD I, Vx (R172): mod 65536, VF untouched. -/
def execAddIVx (x : Index16) (s : State) : Host.Outcome State Fault Refusal :=
  .next ({ s with i := s.i + zextByte (s.reg x) }).advance

/-- `Fx29` LD F, Vx (R173). -/
def execLdFVx (x : Index16) (s : State) : Host.Outcome State Fault Refusal :=
  .next ({ s with i := glyphAddr (s.reg x) }).advance

/-- The shape of the storing instructions: check the range from I, store the bytes in ascending order, advance (R170). -/
def State.storeAtI (s : State) (word : Word) (bytes : List Byte) : State :=
  if inRange s.i.toNat bytes.length then
    ({ s with mem := s.mem.writeList s.i.toNat bytes }).advance
  else s.raise .dataOob word

/-- The register file after V0..Vx are loaded from M[I..I+x] (R176). -/
def State.loadedRegs (s : State) (x : Index16) : Vector Byte 16 :=
  Vector.ofFn fun j => if j ≤ x then s.mem.read (s.dataAddr j.val) else s.v[j]

/-- `Fx33` LD B, Vx (R174). -/
def execLdBVx (x : Index16) (s : State) : Host.Outcome State Fault Refusal :=
  .next (s.storeAtI (encodeWord (.ldBVx x)) (bcdDigits (s.reg x)))

/-- `Fx55` LD [I], Vx (R175). -/
def execLdMemVx (x : Index16) (s : State) : Host.Outcome State Fault Refusal :=
  .next (s.storeAtI (encodeWord (.ldMemVx x)) (s.regsTo x))

/-- `Fx65` LD Vx, [I] (R176). -/
def execLdVxMem (x : Index16) (s : State) : Host.Outcome State Fault Refusal :=
  if inRange s.i.toNat (x.val + 1) then .next ({ s with v := s.loadedRegs x }).advance
  else .next (s.raise .dataOob (encodeWord (.ldVxMem x)))

end Sys2Proof.Machine
end

