-- ==== Sys2Proof/Machine/KeypadTimers.lean ====
section
/-! DEFINITION. Keypad and timer instructions (spec 44_keypad_timers.md). -/

namespace Sys2Proof.Machine

/-- `KEYS[k]` (R33). -/
def State.key (s : State) (k : Index16) : Bool := s.keys[k]

/-- `Ex9E` SKP Vx (R210, R211). -/
def execSkp (x : Index16) (s : State) : Host.Outcome State Fault Refusal :=
  match keyNumber (s.reg x) with
  | some k => .next (s.skipIf (s.key k))
  | none => .next (s.raise .keyIndex (encodeWord (.skp x)))

/-- `ExA1` SKNP Vx (R210, R212). -/
def execSknp (x : Index16) (s : State) : Host.Outcome State Fault Refusal :=
  match keyNumber (s.reg x) with
  | some k => .next (s.skipIf (!s.key k))
  | none => .next (s.raise .keyIndex (encodeWord (.sknp x)))

/-- `Fx07` LD Vx, DT (R213). -/
def execLdVxDt (x : Index16) (s : State) : Host.Outcome State Fault Refusal :=
  .next (s.setReg x s.dt).advance

/-- `Fx0A` LD Vx, K, its entry (R214): PC is not advanced; `State.keyPress` (Agents.lean) completes it (R215). -/
def execLdVxK (x : Index16) (s : State) : Host.Outcome State Fault Refusal :=
  .next { s with wait := some x }

/-- `Fx15` LD DT, Vx (R216). -/
def execLdDtVx (x : Index16) (s : State) : Host.Outcome State Fault Refusal :=
  .next ({ s with dt := s.reg x }).advance

/-- `Fx18` LD ST, Vx (R217). -/
def execLdStVx (x : Index16) (s : State) : Host.Outcome State Fault Refusal :=
  .next ({ s with st := s.reg x }).advance

end Sys2Proof.Machine
end

