-- ==== Sys2Proof/Machine/Executor.lean ====
section
/-! DEFINITION. The executor's step (fetch, decode, execute) and the step of any agent (spec 20_memory.md R64, R69;
60_exceptions.md R234, R238; 70_reset_and_hazards.md R277 to R279). -/

namespace Sys2Proof.Machine

/-- `Fetch(PC)` (R64): the big-endian word at PC, and none where PC + 1 ≥ 4096 (R69). -/
def State.fetch (s : State) : Option Word :=
  if s.pc.toNat + 1 ≥ Config.memSize then none
  else some (wordOfBytes (s.mem.read s.pc.toNat) (s.mem.read (s.pc.toNat + 1)))

/-- Marks that the executor has taken a step since reset (R276). -/
def State.begin (s : State) : State := { s with started := true }

/-- Fetch, decode, execute (R277), with R234's order of checks: FETCH_OOB, then UNKNOWN_OPCODE, then the instruction's own. -/
def runInstruction (s : State) : Host.Outcome State Fault Refusal :=
  match s.fetch with
  | none => .next (s.raise .fetchOob 0x0000#16)
  | some w =>
    match decodeWord w with
    | .ok i => exec i s
    | .error _ => .next (s.raise .unknownOpcode w)

/-- The executor has a step "exactly when HALT = 0, WAIT = NONE and the run has not been stopped" (R279). -/
def State.executorEnabled (s : State) : Bool := !s.halt && s.wait.isNone && !s.stopped

/-- The executor's turn. Halted, it has no step (R232). Waiting for a key, it is held and its turn changes nothing
(R214, R279; log entry 6). Otherwise it runs one instruction. -/
def executorTurn (s : State) : Host.Outcome State Fault Refusal :=
  if s.halt then .fault (.halted s.fcause s.fpc s.fword s.faddr)
  else if s.wait.isSome then .next s
  else runInstruction s.begin

/-- One step of one agent (R8, R238); none follows a stop (R281). -/
def moveStep (m : Move) (s : State) : Host.Outcome State Fault Refusal :=
  if s.stopped then .refused .runStopped
  else
    match m with
    | .execute => executorTurn s
    | .tick => .next s.tick
    | .keySet k pressed => .next (s.keySet k pressed)
    | .keyPress k => .next (s.keyPress k)
    | .render => .next s.render
    | .reset => .next s.applyReset
    | .load bytes => s.load bytes
    | .stop => .next s.stop

/-- Who moves next: the head of the schedule, and the executor where the schedule is empty (log entry 4). -/
def State.nextMove (s : State) : Move := s.sched.headD .execute

/-- The state once its next move is taken from the schedule. -/
def State.takeMove (s : State) : State := { s with sched := s.sched.tail }

/-- Where the host's word goes so that the next executor turn fetches it: PC, or the program base where no word can be
fetched at PC. -/
def State.fetchAddr (s : State) : Word :=
  if s.pc.toNat + 1 ≥ Config.memSize then BitVec.ofNat 16 Config.progBase else s.pc

/-- The machine ready to fetch the word `w` next: stored big-endian at `fetchAddr`, the executor next in the schedule,
and enabled. -/
def State.placeWord (s : State) (w : Word) : State :=
  { s with
    pc := s.fetchAddr
    mem := s.mem.writeList s.fetchAddr.toNat [highByte w, lowByte w]
    wait := none
    halt := false
    stopped := false
    sched := .execute :: s.sched }

end Sys2Proof.Machine
end

