-- ==== Sys2Proof/Machine/Step.lean ====
section
/-! DEFINITION. One step of the machine: one atomic step of the agent that moves next (spec 60_exceptions.md R238). -/

namespace Sys2Proof.Machine

/-- One step: the agent at the head of the schedule, else the executor, takes its step (R20, R238, R278). -/
def step (s : State) : Host.Outcome State Fault Refusal := moveStep s.nextMove s.takeMove

/-- `s` with an instruction's bits stored where the next step fetches, and the executor next to move (log entry 9). -/
def State.withFetchWord (s : State) (nbits w : Nat) : State := s.placeWord (BitVec.ofNat 16 (w % 2 ^ nbits))

end Sys2Proof.Machine
end

