-- ==== Sys2Proof/Safety.lean ====
section
/-! DEFINITION. The terms claims are stated in: what a step answers, the parts of the state and which an instruction
writes, the machine's invariants, runs, and fairness. -/

namespace Sys2Proof.Machine

/-- The next state of an outcome, and none where the machine stops. -/
def nextState? (o : Host.Outcome State Fault Refusal) : Option State :=
  match o with
  | .next s => some s
  | .fault _ => none
  | .refused _ => none

/-- The parts of State: the columns of R38's access matrix, the fault record, and the fields of a run and its environment. -/
inductive Part where
  /-- V0 to VF -/
  | v
  /-- PC -/
  | pc
  /-- SP and STACK -/
  | stack
  /-- I -/
  | i
  /-- DT -/
  | dt
  /-- ST -/
  | st
  /-- M -/
  | mem
  /-- DISP -/
  | disp
  /-- KEYS -/
  | keys
  /-- WAIT -/
  | wait
  /-- HALT, FCAUSE, FPC, FWORD, FADDR -/
  | record
  /-- whether the run has started and been stopped -/
  | run
  /-- the environment's schedule -/
  | sched
  /-- the random source: supplied bytes and draw count -/
  | rnd
  deriving DecidableEq, Repr

/-- The part reads the same in both states; memory is compared through the read of one byte, at every address. -/
def Part.same (p : Part) (s t : State) : Prop :=
  match p with
  | .v => ∀ r, t.reg r = s.reg r
  | .pc => t.pc = s.pc
  | .stack => t.depth = s.depth ∧ t.stack = s.stack
  | .i => t.i = s.i
  | .dt => t.dt = s.dt
  | .st => t.st = s.st
  | .mem => ∀ a, t.mem.read a = s.mem.read a
  | .disp => ∀ c r, t.disp.cell c r = s.disp.cell c r
  | .keys => ∀ k, t.key k = s.key k
  | .wait => t.wait = s.wait
  | .record => t.halt = s.halt ∧ t.fcause = s.fcause ∧ t.fpc = s.fpc ∧ t.fword = s.fword ∧ t.faddr = s.faddr
  | .run => t.started = s.started ∧ t.stopped = s.stopped
  | .sched => t.sched = s.sched
  | .rnd => t.rndIn = s.rndIn ∧ t.draws = s.draws

/-- Every part outside the list is unchanged. -/
def SameBut (changed : List Part) (s t : State) : Prop := ∀ p, p ∉ changed → p.same s t

/-- R38's W columns: the parts an instruction writes when it does not fault. The flag VF is in `v`. Cxkk also draws from
the random source (R258). -/
def instrWrites : Instr → List Part
  | .cls => [.disp, .pc]
  | .ret => [.stack, .pc]
  | .jp _ => [.pc]
  | .call _ => [.stack, .pc]
  | .seVxKk _ _ => [.pc]
  | .sneVxKk _ _ => [.pc]
  | .seVxVy _ _ => [.pc]
  | .ldVxKk _ _ => [.v, .pc]
  | .addVxKk _ _ => [.v, .pc]
  | .ldVxVy _ _ => [.v, .pc]
  | .orVxVy _ _ => [.v, .pc]
  | .andVxVy _ _ => [.v, .pc]
  | .xorVxVy _ _ => [.v, .pc]
  | .addVxVy _ _ => [.v, .pc]
  | .subVxVy _ _ => [.v, .pc]
  | .shrVx _ _ => [.v, .pc]
  | .subnVxVy _ _ => [.v, .pc]
  | .shlVx _ _ => [.v, .pc]
  | .sneVxVy _ _ => [.pc]
  | .ldI _ => [.i, .pc]
  | .jpV0 _ => [.pc]
  | .rnd _ _ => [.v, .pc, .rnd]
  | .drw _ _ _ => [.disp, .v, .pc]
  | .skp _ => [.pc]
  | .sknp _ => [.pc]
  | .ldVxDt _ => [.v, .pc]
  | .ldVxK _ => [.wait]
  | .ldDtVx _ => [.dt, .pc]
  | .ldStVx _ => [.st, .pc]
  | .addIVx _ => [.i, .pc]
  | .ldFVx _ => [.i, .pc]
  | .ldBVx _ => [.mem, .pc]
  | .ldMemVx _ => [.mem, .pc]
  | .ldVxMem _ => [.v, .pc]

/-- The fault an instruction raises by its own check in a state (R231, R234): at most one. -/
def instrFault (i : Instr) (s : State) : Option Cause :=
  match i with
  | .ret => if s.depth.val = 0 then some .stackUnderflow else none
  | .call _ => if s.depth.val = 16 then some .stackOverflow else none
  | .drw _ _ n => if 1 ≤ n ∧ s.i.toNat + n - 1 ≥ 4096 then some .dataOob else none
  | .ldBVx _ => if s.i.toNat + 2 ≥ 4096 then some .dataOob else none
  | .ldMemVx x => if s.i.toNat + x.val ≥ 4096 then some .dataOob else none
  | .ldVxMem x => if s.i.toNat + x.val ≥ 4096 then some .dataOob else none
  | .skp x => if (s.reg x).toNat ≥ 16 then some .keyIndex else none
  | .sknp x => if (s.reg x).toNat ≥ 16 then some .keyIndex else none
  | .cls => none
  | .jp _ => none
  | .seVxKk _ _ => none
  | .sneVxKk _ _ => none
  | .seVxVy _ _ => none
  | .ldVxKk _ _ => none
  | .addVxKk _ _ => none
  | .ldVxVy _ _ => none
  | .orVxVy _ _ => none
  | .andVxVy _ _ => none
  | .xorVxVy _ _ => none
  | .addVxVy _ _ => none
  | .subVxVy _ _ => none
  | .shrVx _ _ => none
  | .subnVxVy _ _ => none
  | .shlVx _ _ => none
  | .sneVxVy _ _ => none
  | .ldI _ => none
  | .jpV0 _ => none
  | .rnd _ _ => none
  | .ldVxDt _ => none
  | .ldVxK _ => none
  | .ldDtVx _ => none
  | .ldStVx _ => none
  | .addIVx _ => none
  | .ldFVx _ => none

/-- The fault record and HALT as fault entry leaves them (R231, R232): FPC is the instruction's own address. -/
def RecordIs (t : State) (c : Cause) (pc word addr : Word) : Prop :=
  t.halt = true ∧ t.fcause = c ∧ t.fpc = pc ∧ t.fword = word ∧ t.faddr = addr

/-- What every step keeps. -/
structure State.Inv (s : State) : Prop where
  /-- memory is in its canonical form (the model's choice, log entry 1), within R60's 0x000–0xFFF -/
  memOk : s.mem.wf = true
  /-- the PC never wraps (R25) -/
  pcMax : s.pc.toNat ≤ 0x10FE
  /-- a return address is the address of a fetched CALL (R25, R124) -/
  stackMax : ∀ j : Index16, s.stack[j].toNat ≤ 0xFFE
  /-- PC still holds the waiting Fx0A's address (R215) -/
  waitPc : s.wait.isSome = true → s.pc.toNat ≤ 0xFFE
  /-- the record is written by a fault only (R35) -/
  noRecord : s.halt = false → s.fcause = .none ∧ s.fpc = 0#16 ∧ s.fword = 0#16 ∧ s.faddr = 0#16
  /-- a halted core does not wait -/
  haltNoWait : s.halt = true → s.wait = none
  /-- before the executor's first step the core is where boot left it (R272) -/
  boot : s.started = false → s.pc = 0x0200#16 ∧ s.halt = false ∧ s.wait = none

/-- R231's table read back from a halted state, which keeps all that the faulting step found (R232, R233): the record
names a fault that the instruction at FPC has in this state. -/
def State.RecordExplained (s : State) : Prop :=
  s.halt = true →
    s.started = true ∧ s.fpc = s.pc ∧
    ((s.fcause = .fetchOob ∧ s.pc.toNat + 1 ≥ 4096 ∧ s.fword = 0x0000#16 ∧
        s.faddr.toNat = max s.pc.toNat 4096) ∨
     (s.fcause = .unknownOpcode ∧ s.fetch = some s.fword ∧
        decodeWord s.fword = .error (.unknownOpcode s.fword) ∧ s.faddr = 0x0000#16) ∨
     (∃ i, s.fetch = some s.fword ∧ decodeWord s.fword = .ok i ∧ instrFault i s = some s.fcause ∧
        s.faddr.toNat = if s.fcause = .dataOob then max s.i.toNat 4096 else 0))

/-- The instruction answers a next state of which P holds. -/
def Completes (i : Instr) (s : State) (P : State → Prop) : Prop := ∃ t, exec i s = .next t ∧ P t

/-- A set bit of the n-row sprite at I, drawn from (V[x], V[y]), falls on the cell (c, r): bit 7 − c' of M[I + r'] with
c = (V[x] + c') mod 64 and r = (V[y] + r') mod 32 (R190, R191, R193). -/
def SpriteSets (s : State) (x y : Index16) (n : Nat) (c : Fin 64) (r : Fin 32) : Prop :=
  ∃ c' r', c' < 8 ∧ r' < n ∧ (s.mem.read (s.i.toNat + r')).getLsbD (7 - c') = true ∧
    c.val = ((s.reg x).toNat + c') % 64 ∧ r.val = ((s.reg y).toNat + r') % 32

/-- What an address reads as once `bytes` are stored from I up: the byte stored there, else what it read before (R65, R75). -/
def State.byteAfterStore (s : State) (bytes : List Byte) (a : Nat) : Byte :=
  if s.i.toNat ≤ a ∧ a < s.i.toNat + bytes.length then bytes.getD (a - s.i.toNat) 0x00#8 else s.mem.read a

/-- Two states alike but for the call-stack entries above SP (R28). -/
def AgreeUpToSp (s t : State) : Prop :=
  t = { s with stack := t.stack } ∧ ∀ j : Index16, (j.val : Int) ≤ s.sp → t.stack[j] = s.stack[j]

/-- Two states alike but for the sound timer (R31). -/
def AgreeButSt (s t : State) : Prop := t = { s with st := t.st }

/-- What a move answers in `s` it answers in `t`, up to a relation on the next states. -/
def MoveAgrees (rel : State → State → Prop) (m : Move) (s t : State) : Prop :=
  (∀ s', moveStep m s = .next s' → ∃ t', moveStep m t = .next t' ∧ rel s' t') ∧
  (∀ f, moveStep m s = .fault f → moveStep m t = .fault f) ∧
  (∀ f, moveStep m s = .refused f → moveStep m t = .refused f)

/-- The parts of the core that reset puts to their reset values (R270, R271). -/
def coreParts : List Part :=
  [.v, .pc, .stack, .i, .dt, .st, .mem, .disp, .keys, .wait, .record]

/-- The parts a move of an agent other than the executor may write (R263's "host may touch" column, R250, R281). -/
def Move.touches : Move → List Part
  | .execute => [.v, .pc, .stack, .i, .dt, .st, .mem, .disp, .wait, .record, .run, .rnd]
  | .tick => [.dt, .st]
  | .keySet _ _ => [.keys]
  | .keyPress _ => [.v, .pc, .wait]
  | .render => []
  | .reset => .run :: coreParts
  | .load _ => [.mem]
  | .stop => [.run]

/-- "*parked at p*": PC = p and the word at p is `1nnn` with nnn = p (R280). -/
def State.parkedAt (s : State) (p : Word) : Prop :=
  s.pc = p ∧ ∃ nnn, s.fetch = some (wordNNN 0x1#4 nnn) ∧ zextAddr nnn = p

/-- An infinite run: a step of some agent after another (R238; the model's form, log entry 13). -/
def IsRun (moves : Nat → Move) (states : Nat → State) : Prop :=
  ∀ n, moveStep (moves n) (states n) = .next (states (n + 1))

/-- The model's reading of R251's fairness assumption (log entry 13): infinitely many ticks, and infinitely many steps of an
executor that is enabled again and again. -/
def Fair (moves : Nat → Move) (states : Nat → State) : Prop :=
  (∀ n, ∃ m, n ≤ m ∧ moves m = .tick) ∧
  ((∀ n, ∃ m, n ≤ m ∧ (states m).executorEnabled = true) →
    ∀ n, ∃ m, n ≤ m ∧ moves m = .execute ∧ (states m).executorEnabled = true)

end Sys2Proof.Machine
end

