-- ==== Sys2Proof/Certificates/Slice0/Obligations.lean ====
section
/-! DEFINITION. The statements for the provers. A statement about one instruction says that its pattern's word decodes to
it, that it answers a next state in every state its hypotheses admit, what that state holds, and all it leaves alone. -/

open Sys2Proof Sys2Proof.Machine

/-! ## Reset, load and stop -/

/-- R271: the reset value of every piece of state. FONT stays a name: nothing is said of its bytes (R66). -/
def Obligations.ResetHoldsItsTableOfValues : Prop :=
  (∀ r, State.reset.reg r = 0x00#8) ∧ State.reset.pc = 0x0200#16 ∧ State.reset.sp = -1 ∧
  (∀ j : Index16, State.reset.stack[j] = 0x0000#16) ∧ State.reset.i = 0x0000#16 ∧
  State.reset.dt = 0x00#8 ∧ State.reset.st = 0x00#8 ∧
  (∀ c r, State.reset.disp.cell c r = false) ∧ (∀ k, State.reset.key k = false) ∧
  State.reset.wait = none ∧ State.reset.halt = false ∧ State.reset.fcause.code = 0#4 ∧
  State.reset.fpc = 0x0000#16 ∧ State.reset.fword = 0x0000#16 ∧ State.reset.faddr = 0x0000#16 ∧
  Config.font.length = 80 ∧
  (∀ a, a ≤ 0x04F → some (State.reset.mem.read a) = Config.font[a]?) ∧
  (∀ a, 0x050 ≤ a → a ≤ 0xFFF → State.reset.mem.read a = 0x00#8)

/-- R270: the controller's reset puts every piece of core state to its reset value in one step, from every state of a run
that has not been stopped, a halted one too, and a load may follow. -/
def Obligations.ResetMoveRestoresEveryCorePart : Prop :=
  ∀ s, s.stopped = false → ∃ t, moveStep .reset s = .next t ∧ t.started = false ∧
    ∀ p ∈ coreParts, p.same State.reset t

/-- R274, R275: `load(bytes)` before the first executor step copies the bytes to 0x200 and changes no other byte and no
other part; one byte over 3584 is refused. That a size error and a late load are refusals by name is the model's form of
R275 and R276 (log entry 7). -/
def Obligations.LoadCopiesTheProgramOrIsRefused : Prop :=
  ∀ s bytes, s.stopped = false → s.mem.wf = true →
    (3584 < bytes.length → moveStep (.load bytes) s = .refused .loadTooLarge) ∧
    (bytes.length ≤ 3584 → s.started = false → ∃ t, moveStep (.load bytes) s = .next t ∧
      (∀ j (h : j < bytes.length), t.mem.read (0x200 + j) = bytes[j]) ∧
      (∀ a, a < 0x200 ∨ 0x200 + bytes.length ≤ a → t.mem.read a = s.mem.read a) ∧
      SameBut [.mem] s t) ∧
    (bytes.length ≤ 3584 → s.started = true → moveStep (.load bytes) s = .refused .loadAfterStart)

/-- R281: a stop writes nothing of the core, and no step of any agent follows it: each is refused, the model's form of "no
step" (log entry 6). -/
def Obligations.StopLeavesTheStateAndEndsTheRun : Prop :=
  ∀ s, s.stopped = false → ∃ t, moveStep .stop s = .next t ∧ SameBut [.run] s t ∧ t.started = s.started ∧
    ∀ m, moveStep m t = .refused .runStopped

/-! ## Control transfer and skips -/

/-- R122, R28: RET pops a CALL's own address and goes on 2 after it; with no entry held it raises STACK_UNDERFLOW and
nothing else changes. -/
def Obligations.RetReturnsPastTheCall : Prop :=
  decodeWord 0x00EE#16 = .ok .ret ∧
  ∀ s,
    (∀ j : Index16, s.sp = (j.val : Int) → Completes .ret s fun t =>
      t.pc = s.stack[j] + 2#16 ∧ t.sp = s.sp - 1 ∧ t.stack = s.stack ∧ SameBut [.pc, .stack] s t) ∧
    (s.sp = -1 → Completes .ret s fun t =>
      RecordIs t .stackUnderflow s.pc 0x00EE#16 0x0000#16 ∧ SameBut [.record] s t)

/-- R123: JP sets PC to nnn. -/
def Obligations.JpSetsThePc : Prop :=
  ∀ (nnn : Addr12) s, decodeWord (0x1#4 ++ nnn) = .ok (.jp nnn) ∧
    Completes (.jp nnn) s fun t => t.pc.toNat = nnn.toNat ∧ SameBut [.pc] s t

/-- R124, R27: CALL pushes its own address and jumps; with 16 entries held it raises STACK_OVERFLOW and nothing else
changes. -/
def Obligations.CallPushesItsOwnAddress : Prop :=
  ∀ (nnn : Addr12) s, decodeWord (0x2#4 ++ nnn) = .ok (.call nnn) ∧
    (s.sp < 15 → Completes (.call nnn) s fun t =>
      t.pc.toNat = nnn.toNat ∧ t.sp = s.sp + 1 ∧
      (∀ j : Index16, t.stack[j] = if (j.val : Int) = s.sp + 1 then s.pc else s.stack[j]) ∧
      SameBut [.pc, .stack] s t) ∧
    (s.sp = 15 → Completes (.call nnn) s fun t =>
      RecordIs t .stackOverflow s.pc (0x2#4 ++ nnn) 0x0000#16 ∧ SameBut [.record] s t)

/-- R122, R124 (§8's property, 90_conflicts.md C2): CALL then RET goes on right after the CALL. -/
def Obligations.CallThenRetRestoresPc : Prop :=
  ∀ nnn s, s.sp < 15 → ∃ t u, exec (.call nnn) s = .next t ∧ exec .ret t = .next u ∧
    u.pc = s.pc + 2#16 ∧ u.sp = s.sp ∧ SameBut [.pc, .stack] s u

/-- R125, R126 (with R121): SE and SNE with an immediate. -/
def Obligations.SkipsOnAnImmediate : Prop :=
  ∀ (x : Index16) (kk : Byte) s,
    decodeWord (0x3#4 ++ x.toNibble ++ kk) = .ok (.seVxKk x kk) ∧
    decodeWord (0x4#4 ++ x.toNibble ++ kk) = .ok (.sneVxKk x kk) ∧
    (Completes (.seVxKk x kk) s fun t =>
      t.pc = (if s.reg x = kk then s.pc + 4#16 else s.pc + 2#16) ∧ SameBut [.pc] s t) ∧
    (Completes (.sneVxKk x kk) s fun t =>
      t.pc = (if s.reg x = kk then s.pc + 2#16 else s.pc + 4#16) ∧ SameBut [.pc] s t)

/-- R127, R128 (with R121): SE and SNE with two registers. -/
def Obligations.SkipsOnTwoRegisters : Prop :=
  ∀ (x y : Index16) s,
    decodeWord (0x5#4 ++ x.toNibble ++ y.toNibble ++ 0x0#4) = .ok (.seVxVy x y) ∧
    decodeWord (0x9#4 ++ x.toNibble ++ y.toNibble ++ 0x0#4) = .ok (.sneVxVy x y) ∧
    (Completes (.seVxVy x y) s fun t =>
      t.pc = (if s.reg x = s.reg y then s.pc + 4#16 else s.pc + 2#16) ∧ SameBut [.pc] s t) ∧
    (Completes (.sneVxVy x y) s fun t =>
      t.pc = (if s.reg x = s.reg y then s.pc + 2#16 else s.pc + 4#16) ∧ SameBut [.pc] s t)

/-- R129: JP V0 adds V0 to nnn exactly, with no wrap to 12 bits. -/
def Obligations.JpV0AddsExactly : Prop :=
  ∀ (nnn : Addr12) s, decodeWord (0xB#4 ++ nnn) = .ok (.jpV0 nnn) ∧
    Completes (.jpV0 nnn) s fun t => t.pc.toNat = nnn.toNat + (s.reg 0).toNat ∧ SameBut [.pc] s t

/-! ## Register loads and the ALU -/

/-- R141: LD Vx, kk. -/
def Obligations.LdVxKkLoadsTheImmediate : Prop :=
  ∀ (x : Index16) (kk : Byte) s, decodeWord (0x6#4 ++ x.toNibble ++ kk) = .ok (.ldVxKk x kk) ∧
    Completes (.ldVxKk x kk) s fun t =>
      t.reg x = kk ∧ (∀ r, r ≠ x → t.reg r = s.reg r) ∧ t.pc = s.pc + 2#16 ∧ SameBut [.v, .pc] s t

/-- R142: ADD Vx, kk wraps mod 256 and does not set VF. -/
def Obligations.AddVxKkWrapsWithoutAFlag : Prop :=
  ∀ (x : Index16) (kk : Byte) s, decodeWord (0x7#4 ++ x.toNibble ++ kk) = .ok (.addVxKk x kk) ∧
    Completes (.addVxKk x kk) s fun t =>
      (t.reg x).toNat = ((s.reg x).toNat + kk.toNat) % 256 ∧ (∀ r, r ≠ x → t.reg r = s.reg r) ∧
      t.pc = s.pc + 2#16 ∧ SameBut [.v, .pc] s t

/-- R143: LD Vx, Vy. -/
def Obligations.LdVxVyCopies : Prop :=
  ∀ (x y : Index16) s, decodeWord (0x8#4 ++ x.toNibble ++ y.toNibble ++ 0x0#4) = .ok (.ldVxVy x y) ∧
    Completes (.ldVxVy x y) s fun t =>
      t.reg x = s.reg y ∧ (∀ r, r ≠ x → t.reg r = s.reg r) ∧ t.pc = s.pc + 2#16 ∧ SameBut [.v, .pc] s t

/-- R144, R145, R146: OR, AND and XOR, bit by bit, with VF unchanged unless it is Vx. -/
def Obligations.LogicIsBitwiseWithoutAFlag : Prop :=
  ∀ (x y : Index16) s,
    decodeWord (0x8#4 ++ x.toNibble ++ y.toNibble ++ 0x1#4) = .ok (.orVxVy x y) ∧
    decodeWord (0x8#4 ++ x.toNibble ++ y.toNibble ++ 0x2#4) = .ok (.andVxVy x y) ∧
    decodeWord (0x8#4 ++ x.toNibble ++ y.toNibble ++ 0x3#4) = .ok (.xorVxVy x y) ∧
    (Completes (.orVxVy x y) s fun t =>
      (∀ b, (t.reg x).getLsbD b = ((s.reg x).getLsbD b || (s.reg y).getLsbD b)) ∧
      (∀ r, r ≠ x → t.reg r = s.reg r) ∧ t.pc = s.pc + 2#16 ∧ SameBut [.v, .pc] s t) ∧
    (Completes (.andVxVy x y) s fun t =>
      (∀ b, (t.reg x).getLsbD b = ((s.reg x).getLsbD b && (s.reg y).getLsbD b)) ∧
      (∀ r, r ≠ x → t.reg r = s.reg r) ∧ t.pc = s.pc + 2#16 ∧ SameBut [.v, .pc] s t) ∧
    (Completes (.xorVxVy x y) s fun t =>
      (∀ b, (t.reg x).getLsbD b = xor ((s.reg x).getLsbD b) ((s.reg y).getLsbD b)) ∧
      (∀ r, r ≠ x → t.reg r = s.reg r) ∧ t.pc = s.pc + 2#16 ∧ SameBut [.v, .pc] s t)

/-- R147: ADD Vx, Vy leaves the sum mod 256 in Vx and the carry of the exact sum in VF; with x = F the sum stays. -/
def Obligations.AddVxVySetsCarry : Prop :=
  ∀ (x y : Index16) s, decodeWord (0x8#4 ++ x.toNibble ++ y.toNibble ++ 0x4#4) = .ok (.addVxVy x y) ∧
    Completes (.addVxVy x y) s fun t =>
      (t.reg x).toNat = ((s.reg x).toNat + (s.reg y).toNat) % 256 ∧
      (x ≠ vF → t.reg vF = if (s.reg x).toNat + (s.reg y).toNat > 255 then 1#8 else 0#8) ∧
      (∀ r, r ≠ x → r ≠ vF → t.reg r = s.reg r) ∧ t.pc = s.pc + 2#16 ∧ SameBut [.v, .pc] s t

/-- R148: SUB leaves Vx − Vy mod 256 in Vx and "no borrow" in VF; with x = F the difference stays. -/
def Obligations.SubVxVySetsNotBorrow : Prop :=
  ∀ (x y : Index16) s, decodeWord (0x8#4 ++ x.toNibble ++ y.toNibble ++ 0x5#4) = .ok (.subVxVy x y) ∧
    Completes (.subVxVy x y) s fun t =>
      ((t.reg x).toNat : Int) = ((s.reg x).toNat - (s.reg y).toNat : Int) % 256 ∧
      (x ≠ vF → t.reg vF = if (s.reg x).toNat ≥ (s.reg y).toNat then 1#8 else 0#8) ∧
      (∀ r, r ≠ x → r ≠ vF → t.reg r = s.reg r) ∧ t.pc = s.pc + 2#16 ∧ SameBut [.v, .pc] s t

/-- R149, R99: SHR halves Vx and leaves its old bit 0 in VF, whatever y is; with x = F the result stays. -/
def Obligations.ShrShiftsVxWhateverYIs : Prop :=
  ∀ (x y : Index16) s, decodeWord (0x8#4 ++ x.toNibble ++ y.toNibble ++ 0x6#4) = .ok (.shrVx x y) ∧
    Completes (.shrVx x y) s fun t =>
      (t.reg x).toNat = (s.reg x).toNat / 2 ∧ (x ≠ vF → (t.reg vF).toNat = (s.reg x).toNat % 2) ∧
      (∀ r, r ≠ x → r ≠ vF → t.reg r = s.reg r) ∧ t.pc = s.pc + 2#16 ∧ SameBut [.v, .pc] s t ∧
      ∀ y', exec (.shrVx x y') s = .next t

/-- R150: SUBN leaves Vy − Vx mod 256 in Vx and 1 in VF exactly when Vy > Vx; with x = F the difference stays. -/
def Obligations.SubnVxVyFlagsStrictlyGreater : Prop :=
  ∀ (x y : Index16) s, decodeWord (0x8#4 ++ x.toNibble ++ y.toNibble ++ 0x7#4) = .ok (.subnVxVy x y) ∧
    Completes (.subnVxVy x y) s fun t =>
      ((t.reg x).toNat : Int) = ((s.reg y).toNat - (s.reg x).toNat : Int) % 256 ∧
      (x ≠ vF → t.reg vF = if (s.reg y).toNat > (s.reg x).toNat then 1#8 else 0#8) ∧
      (∀ r, r ≠ x → r ≠ vF → t.reg r = s.reg r) ∧ t.pc = s.pc + 2#16 ∧ SameBut [.v, .pc] s t

/-- R151, R99: SHL doubles Vx mod 256 and leaves its old bit 7 in VF, whatever y is; with x = F the result stays. -/
def Obligations.ShlShiftsVxWhateverYIs : Prop :=
  ∀ (x y : Index16) s, decodeWord (0x8#4 ++ x.toNibble ++ y.toNibble ++ 0xE#4) = .ok (.shlVx x y) ∧
    Completes (.shlVx x y) s fun t =>
      (t.reg x).toNat = (2 * (s.reg x).toNat) % 256 ∧ (x ≠ vF → (t.reg vF).toNat = (s.reg x).toNat / 128) ∧
      (∀ r, r ≠ x → r ≠ vF → t.reg r = s.reg r) ∧ t.pc = s.pc + 2#16 ∧ SameBut [.v, .pc] s t ∧
      ∀ y', exec (.shlVx x y') s = .next t

/-- R152: RND leaves some byte masked by kk in Vx, so no bit outside kk, and consumes nothing but the random source. -/
def Obligations.RndIsMaskedByItsImmediate : Prop :=
  ∀ (x : Index16) (kk : Byte) s, decodeWord (0xC#4 ++ x.toNibble ++ kk) = .ok (.rnd x kk) ∧
    Completes (.rnd x kk) s fun t =>
      (∃ r : Byte, t.reg x = r &&& kk) ∧ t.reg x &&& ~~~kk = 0#8 ∧
      (∀ r, r ≠ x → t.reg r = s.reg r) ∧ t.pc = s.pc + 2#16 ∧ SameBut [.v, .pc, .rnd] s t

/-- The model's form of the `rnd` port (log entry 3; R258, R259): a supplied byte is the draw and is used up. -/
def Obligations.RndTakesTheSuppliedByte : Prop :=
  ∀ (x : Index16) (kk r : Byte) rest s, s.rndIn = r :: rest → Completes (.rnd x kk) s fun t =>
    t.reg x = r &&& kk ∧ t.rndIn = rest ∧ t.draws = s.draws

/-! ## Index register, loads and stores -/

/-- R171: LD I, nnn. -/
def Obligations.LdILoadsTheAddress : Prop :=
  ∀ (nnn : Addr12) s, decodeWord (0xA#4 ++ nnn) = .ok (.ldI nnn) ∧
    Completes (.ldI nnn) s fun t =>
      t.i.toNat = nnn.toNat ∧ t.pc = s.pc + 2#16 ∧ SameBut [.i, .pc] s t

/-- R172: ADD I, Vx wraps mod 65536 and leaves every V register alone, VF too. -/
def Obligations.AddIVxWrapsWithoutAFlag : Prop :=
  ∀ (x : Index16) s, decodeWord (0xF#4 ++ x.toNibble ++ 0x1E#8) = .ok (.addIVx x) ∧
    Completes (.addIVx x) s fun t =>
      t.i.toNat = (s.i.toNat + (s.reg x).toNat) % 65536 ∧ t.pc = s.pc + 2#16 ∧ SameBut [.i, .pc] s t

/-- R173: LD F, Vx points I at 5 × Vx, unmasked. -/
def Obligations.LdFVxPointsAtTheGlyph : Prop :=
  ∀ (x : Index16) s, decodeWord (0xF#4 ++ x.toNibble ++ 0x29#8) = .ok (.ldFVx x) ∧
    Completes (.ldFVx x) s fun t =>
      t.i.toNat = 5 * (s.reg x).toNat ∧ t.pc = s.pc + 2#16 ∧ SameBut [.i, .pc] s t

/-- R174: LD B, Vx stores the hundreds, tens and ones of Vx at I, I+1, I+2 and no other byte; where I + 2 ≥ 4096 it raises
DATA_OOB and nothing else changes. -/
def Obligations.LdBVxStoresThreeDigits : Prop :=
  ∀ (x : Index16) s, s.mem.wf = true →
    decodeWord (0xF#4 ++ x.toNibble ++ 0x33#8) = .ok (.ldBVx x) ∧
    (s.i.toNat + 2 < 4096 → Completes (.ldBVx x) s fun t =>
      (t.mem.read s.i.toNat).toNat = (s.reg x).toNat / 100 ∧
      (t.mem.read (s.i.toNat + 1)).toNat = (s.reg x).toNat / 10 % 10 ∧
      (t.mem.read (s.i.toNat + 2)).toNat = (s.reg x).toNat % 10 ∧
      (∀ a, a < s.i.toNat ∨ s.i.toNat + 3 ≤ a → t.mem.read a = s.mem.read a) ∧
      t.pc = s.pc + 2#16 ∧ SameBut [.mem, .pc] s t) ∧
    (4096 ≤ s.i.toNat + 2 → Completes (.ldBVx x) s fun t =>
      (∃ addr : Word, addr.toNat = max s.i.toNat 4096 ∧
        RecordIs t .dataOob s.pc (0xF#4 ++ x.toNibble ++ 0x33#8) addr) ∧ SameBut [.record] s t)

/-- R175: LD [I], Vx stores V0..Vx at I..I+x and no other byte; where I + x ≥ 4096 it raises DATA_OOB and nothing else
changes. -/
def Obligations.LdMemVxStoresTheRegisters : Prop :=
  ∀ (x : Index16) s, s.mem.wf = true →
    decodeWord (0xF#4 ++ x.toNibble ++ 0x55#8) = .ok (.ldMemVx x) ∧
    (s.i.toNat + x.val < 4096 → Completes (.ldMemVx x) s fun t =>
      (∀ j, j ≤ x → t.mem.read (s.i.toNat + j.val) = s.reg j) ∧
      (∀ a, a < s.i.toNat ∨ s.i.toNat + x.val < a → t.mem.read a = s.mem.read a) ∧
      t.pc = s.pc + 2#16 ∧ SameBut [.mem, .pc] s t) ∧
    (4096 ≤ s.i.toNat + x.val → Completes (.ldMemVx x) s fun t =>
      (∃ addr : Word, addr.toNat = max s.i.toNat 4096 ∧
        RecordIs t .dataOob s.pc (0xF#4 ++ x.toNibble ++ 0x55#8) addr) ∧ SameBut [.record] s t)

/-- R176: LD Vx, [I] loads V0..Vx from I..I+x, leaves the registers above x, all memory and I; where I + x ≥ 4096 it
raises DATA_OOB and nothing else changes. -/
def Obligations.LdVxMemLoadsTheRegisters : Prop :=
  ∀ (x : Index16) s,
    decodeWord (0xF#4 ++ x.toNibble ++ 0x65#8) = .ok (.ldVxMem x) ∧
    (s.i.toNat + x.val < 4096 → Completes (.ldVxMem x) s fun t =>
      (∀ j, j ≤ x → t.reg j = s.mem.read (s.i.toNat + j.val)) ∧ (∀ j, x < j → t.reg j = s.reg j) ∧
      t.pc = s.pc + 2#16 ∧ SameBut [.v, .pc] s t) ∧
    (4096 ≤ s.i.toNat + x.val → Completes (.ldVxMem x) s fun t =>
      (∃ addr : Word, addr.toNat = max s.i.toNat 4096 ∧
        RecordIs t .dataOob s.pc (0xF#4 ++ x.toNibble ++ 0x65#8) addr) ∧ SameBut [.record] s t)

/-- R75: a store is seen by the very next fetch, byte by byte, whichever bytes of the next word it overwrites. -/
def Obligations.StoreIsSeenByTheNextFetch : Prop :=
  ∀ (x : Index16) s, s.mem.wf = true → s.pc.toNat + 3 < 4096 →
    (s.i.toNat + x.val < 4096 → Completes (.ldMemVx x) s fun t =>
      t.fetch = some (wordOfBytes (s.byteAfterStore (s.regsTo x) (s.pc.toNat + 2))
        (s.byteAfterStore (s.regsTo x) (s.pc.toNat + 3)))) ∧
    (s.i.toNat + 2 < 4096 → Completes (.ldBVx x) s fun t =>
      t.fetch = some (wordOfBytes (s.byteAfterStore (bcdDigits (s.reg x)) (s.pc.toNat + 2))
        (s.byteAfterStore (bcdDigits (s.reg x)) (s.pc.toNat + 3))))

/-! ## Display -/

/-- R192: CLS clears every cell and writes no register. -/
def Obligations.ClsClearsTheDisplay : Prop :=
  decodeWord 0x00E0#16 = .ok .cls ∧
  ∀ s, Completes .cls s fun t =>
    (∀ c r, t.disp.cell c r = false) ∧ t.pc = s.pc + 2#16 ∧ SameBut [.disp, .pc] s t

/-- R193: DRW flips exactly the cells under set sprite bits, with VF = 1 iff one of them was 1; n = 0 only clears VF, reads
no memory and cannot fault; a range that reaches 4096 raises DATA_OOB and nothing else changes. `SpriteSets` takes the bit
order of a row byte from R191, which the spec marks as its own (log entry 5). -/
def Obligations.DrwFlipsTheCellsUnderTheSprite : Prop :=
  ∀ (x y : Index16) (n : Nat) s, n < 16 →
    decodeWord (0xD#4 ++ x.toNibble ++ y.toNibble ++ BitVec.ofNat 4 n) = .ok (.drw x y n) ∧
    (n = 0 → Completes (.drw x y n) s fun t =>
      t.reg vF = 0x00#8 ∧ (∀ r, r ≠ vF → t.reg r = s.reg r) ∧ t.pc = s.pc + 2#16 ∧ SameBut [.v, .pc] s t) ∧
    (1 ≤ n → s.i.toNat + n - 1 < 4096 → Completes (.drw x y n) s fun t =>
      (∀ c r, SpriteSets s x y n c r → t.disp.cell c r = !s.disp.cell c r) ∧
      (∀ c r, ¬SpriteSets s x y n c r → t.disp.cell c r = s.disp.cell c r) ∧
      ((∃ c r, SpriteSets s x y n c r ∧ s.disp.cell c r = true) → t.reg vF = 0x01#8) ∧
      ((¬∃ c r, SpriteSets s x y n c r ∧ s.disp.cell c r = true) → t.reg vF = 0x00#8) ∧
      (∀ r, r ≠ vF → t.reg r = s.reg r) ∧ t.pc = s.pc + 2#16 ∧ SameBut [.disp, .v, .pc] s t) ∧
    (1 ≤ n → 4096 ≤ s.i.toNat + n - 1 → Completes (.drw x y n) s fun t =>
      (∃ addr : Word, addr.toNat = max s.i.toNat 4096 ∧
        RecordIs t .dataOob s.pc (0xD#4 ++ x.toNibble ++ y.toNibble ++ BitVec.ofNat 4 n) addr) ∧ SameBut [.record] s t)

/-- R194: the compositor's four laws, and which of the two draws collides, over the cells of `SpriteSets` (bit order: log
entry 5). -/
def Obligations.DrawingTwiceRestoresTheDisplay : Prop :=
  (∀ (x y : Index16) (n : Nat) s, x ≠ vF → y ≠ vF → n < 16 → (n = 0 ∨ s.i.toNat + n ≤ 4096) →
    ∃ t u, exec (.drw x y n) s = .next t ∧ exec (.drw x y n) t = .next u ∧
      (∀ c r, u.disp.cell c r = s.disp.cell c r) ∧
      (t.reg vF = 0x01#8 ↔ ∃ c r, SpriteSets s x y n c r ∧ s.disp.cell c r = true) ∧
      (u.reg vF = 0x01#8 ↔ ∃ c r, SpriteSets s x y n c r ∧ s.disp.cell c r = false) ∧
      (∀ c r, t.disp.cell c r ≠ s.disp.cell c r ↔ SpriteSets s x y n c r)) ∧
  (∀ (x y : Index16) (n : Nat) s,
    ∃ t u w, exec .cls s = .next t ∧ exec (.drw x y n) t = .next u ∧ exec .cls u = .next w ∧
      ∀ c r, w.disp.cell c r = false)

/-! ## Keypad and timers -/

/-- R210, R211, R212: SKP and SKNP skip on the key's flag; a key number of 16 or more raises KEY_INDEX and nothing else
changes. -/
def Obligations.SkipsOnAKey : Prop :=
  ∀ (x : Index16) s,
    decodeWord (0xE#4 ++ x.toNibble ++ 0x9E#8) = .ok (.skp x) ∧
    decodeWord (0xE#4 ++ x.toNibble ++ 0xA1#8) = .ok (.sknp x) ∧
    (∀ k : Index16, (s.reg x).toNat = k.val →
      (Completes (.skp x) s fun t =>
        t.pc = (if s.key k = true then s.pc + 4#16 else s.pc + 2#16) ∧ SameBut [.pc] s t) ∧
      (Completes (.sknp x) s fun t =>
        t.pc = (if s.key k = true then s.pc + 2#16 else s.pc + 4#16) ∧ SameBut [.pc] s t)) ∧
    (16 ≤ (s.reg x).toNat →
      (Completes (.skp x) s fun t =>
        RecordIs t .keyIndex s.pc (0xE#4 ++ x.toNibble ++ 0x9E#8) 0x0000#16 ∧ SameBut [.record] s t) ∧
      (Completes (.sknp x) s fun t =>
        RecordIs t .keyIndex s.pc (0xE#4 ++ x.toNibble ++ 0xA1#8) 0x0000#16 ∧ SameBut [.record] s t))

/-- R213: LD Vx, DT. -/
def Obligations.LdVxDtReadsTheDelayTimer : Prop :=
  ∀ (x : Index16) s, decodeWord (0xF#4 ++ x.toNibble ++ 0x07#8) = .ok (.ldVxDt x) ∧
    Completes (.ldVxDt x) s fun t =>
      t.reg x = s.dt ∧ (∀ r, r ≠ x → t.reg r = s.reg r) ∧ t.pc = s.pc + 2#16 ∧ SameBut [.v, .pc] s t

/-- R216, R217: LD DT, Vx and LD ST, Vx. -/
def Obligations.TimersAreSetFromVx : Prop :=
  ∀ (x : Index16) s,
    decodeWord (0xF#4 ++ x.toNibble ++ 0x15#8) = .ok (.ldDtVx x) ∧
    decodeWord (0xF#4 ++ x.toNibble ++ 0x18#8) = .ok (.ldStVx x) ∧
    (Completes (.ldDtVx x) s fun t => t.dt = s.reg x ∧ t.pc = s.pc + 2#16 ∧ SameBut [.dt, .pc] s t) ∧
    (Completes (.ldStVx x) s fun t => t.st = s.reg x ∧ t.pc = s.pc + 2#16 ∧ SameBut [.st, .pc] s t)

/-- R214: LD Vx, K enters the wait: only WAIT is written, the executor has no step there, and a tick leaves the wait. -/
def Obligations.LdVxKEntersTheWait : Prop :=
  ∀ (x : Index16) s, decodeWord (0xF#4 ++ x.toNibble ++ 0x0A#8) = .ok (.ldVxK x) ∧
    Completes (.ldVxK x) s fun t =>
      t.wait = some x ∧ SameBut [.wait] s t ∧ t.executorEnabled = false ∧ t.tick.wait = some x

/-- R215, R255: a key-press notification completes a waiting Fx0A, and has no effect otherwise. -/
def Obligations.KeyPressCompletesTheWait : Prop :=
  ∀ (k : Index16) s, s.stopped = false →
    (∀ x, s.wait = some x → s.halt = false → ∃ t, moveStep (.keyPress k) s = .next t ∧
      (t.reg x).toNat = k.val ∧ (∀ r, r ≠ x → t.reg r = s.reg r) ∧ t.pc = s.pc + 2#16 ∧ t.wait = none ∧
      SameBut [.v, .pc, .wait] s t) ∧
    (s.wait = none ∨ s.halt = true → moveStep (.keyPress k) s = .next s)

/-- R250: a tick lowers DT and ST by 1 where they are above 0, also while the core waits for a key, and does nothing in the
halted state. -/
def Obligations.TickCountsDownToZero : Prop :=
  ∀ s, s.stopped = false → ∃ t, moveStep .tick s = .next t ∧
    (s.halt = false → t.dt.toNat = s.dt.toNat - 1 ∧ t.st.toNat = s.st.toNat - 1) ∧
    (s.halt = true → t = s) ∧ SameBut [.dt, .st] s t

/-- R254: the input source's key_set writes one key flag. -/
def Obligations.KeySetWritesOneFlag : Prop :=
  ∀ k b s, s.stopped = false → ∃ t, moveStep (.keySet k b) s = .next t ∧
    (∀ j, t.key j = if j = k then b else s.key j) ∧ SameBut [.keys] s t

/-- A fair infinite run in which nothing raises the delay timer reaches a state where it is 0. `IsRun` and `Fair` are the
model's reading of R251's fairness assumption (log entry 13), not R251's own words. -/
def Obligations.DelayTimerReachesZeroUnderFairness : Prop :=
  ∀ moves states, IsRun moves states → Fair moves states → (∀ n, (states n).halt = false) →
    (∀ n, (states (n + 1)).dt.toNat ≤ (states n).dt.toNat) → ∃ n, (states n).dt = 0x00#8

/-! ## The step, faults and the halted state -/

/-- R277: where the bytes at PC decode to an instruction and the executor moves next and is enabled, a step is that
instruction's effect on the state with its move taken and the first step marked (log entry 4). -/
def Obligations.StepRunsTheDecodedInstruction : Prop :=
  ∀ s i, s.nextMove = .execute → s.executorEnabled = true → s.pc.toNat + 1 < 4096 →
    decodeBytes [s.mem.read s.pc.toNat, s.mem.read (s.pc.toNat + 1)] = .ok (i, []) →
    step s = exec i { s with sched := s.sched.tail, started := true }

/-- R64, R69, R234: a fetch with PC + 1 ≥ 4096 raises FETCH_OOB before any decode, and nothing else changes. -/
def Obligations.FetchOutOfRangeFaults : Prop :=
  ∀ s, s.executorEnabled = true → 4096 ≤ s.pc.toNat + 1 → ∃ t, moveStep .execute s = .next t ∧
    (∃ addr : Word, addr.toNat = max s.pc.toNat 4096 ∧ RecordIs t .fetchOob s.pc 0x0000#16 addr) ∧
    SameBut [.record, .run] s t ∧ t.started = true ∧ t.stopped = false

/-- R97: executing an unknown opcode raises UNKNOWN_OPCODE with FPC = PC and FWORD = the word, and nothing else changes. -/
def Obligations.UnknownOpcodeFaults : Prop :=
  ∀ s w, s.executorEnabled = true → s.fetch = some w → decodeWord w = .error (.unknownOpcode w) →
    ∃ t, moveStep .execute s = .next t ∧ RecordIs t .unknownOpcode s.pc w 0x0000#16 ∧
      SameBut [.record, .run] s t ∧ t.started = true ∧ t.stopped = false

/-- R279 in the model's form (log entry 6): the executor's turn is no step when halted, changes nothing while waiting, no
agent moves after a stop, and an enabled executor always completes its step. -/
def Obligations.ExecutorHasAStepExactlyWhenEnabled : Prop :=
  ∀ s,
    (s.stopped = true → ∀ m, moveStep m s = .refused .runStopped) ∧
    (s.stopped = false → s.halt = true →
      moveStep .execute s = .fault (.halted s.fcause s.fpc s.fword s.faddr)) ∧
    (s.stopped = false → s.halt = false → s.wait.isSome = true → moveStep .execute s = .next s) ∧
    (s.executorEnabled = true → ∃ t, moveStep .execute s = .next t ∧ t.started = true)

/-- R231, R232, R233: an instruction's own fault writes the fault record and nothing else. R231 asks for the fetched word in
FWORD; that `encodeWord i` is that word is deduced (log entry 8; `EncodeOfDecodeIsTheWord`). -/
def Obligations.FaultsArePrecise : Prop :=
  ∀ i s c, instrFault i s = some c → Completes i s fun t =>
    (∃ addr : Word, addr.toNat = (if c = .dataOob then max s.i.toNat 4096 else 0) ∧
      RecordIs t c s.pc (encodeWord i) addr) ∧ SameBut [.record] s t

/-- R38: an instruction that does not fault completes and writes only the parts its row of the access matrix lists. -/
def Obligations.InstructionsWriteOnlyTheirParts : Prop :=
  ∀ i s, instrFault i s = none → Completes i s fun t => SameBut (instrWrites i) s t

/-- R232, R236: the halted state is final: no move but reset changes anything of it but the key flags and the stop. -/
def Obligations.HaltedStateIsFinalUntilReset : Prop :=
  ∀ m s t, s.Inv → s.halt = true → m ≠ .reset → moveStep m s = .next t →
    SameBut [.keys, .run] s t ∧ t.started = s.started ∧ m ≠ .execute

/-- R263 (with R250, R254, R255, R281): what each agent's step may touch; in particular no host step but a load before the
first executor step writes memory. -/
def Obligations.AgentsTouchOnlyTheirParts : Prop :=
  ∀ m s t, moveStep m s = .next t → SameBut m.touches s t ∧ (∀ bytes, m = .load bytes → s.started = false)

/-- R280: an executor step of a state parked at p leaves every part of the core unchanged. -/
def Obligations.ParkedStateKeepsEverything : Prop :=
  ∀ s p, s.parkedAt p → s.executorEnabled = true → ∃ t, moveStep .execute s = .next t ∧
    SameBut [.run] s t ∧ t.stopped = false ∧ t.parkedAt p

/-- R28: the values held above SP cannot be observed: states alike up to SP answer every move alike, up to SP. -/
def Obligations.EntriesAboveSpAreUnobservable : Prop :=
  ∀ m s t, AgreeUpToSp s t → MoveAgrees AgreeUpToSp m s t

/-- R31: a program cannot observe ST: states alike but for ST answer every move alike, but for ST. -/
def Obligations.SoundTimerIsUnobservable : Prop :=
  ∀ m s t, AgreeButSt s t → MoveAgrees AgreeButSt m s t

/-! ## Encoding -/

/-- Words written out bit by bit from R94 and R96, one of each family at least, decode to their instructions. -/
def Obligations.SampleWordsDecode : Prop :=
  decodeWord 0b0000000011100000#16 = .ok .cls ∧
  decodeWord 0b0001001000110100#16 = .ok (.jp 0x234#12) ∧
  decodeWord 0b0011001100101010#16 = .ok (.seVxKk 3 0x2A#8) ∧
  decodeWord 0b1000000100100111#16 = .ok (.subnVxVy 1 2) ∧
  decodeWord 0b1010001100000000#16 = .ok (.ldI 0x300#12) ∧
  decodeWord 0b1101001101000101#16 = .ok (.drw 3 4 5) ∧
  decodeWord 0b1110010110100001#16 = .ok (.sknp 5) ∧
  decodeWord 0b1111101000110011#16 = .ok (.ldBVx 0xA)

/-- R90 to R96: decoding an encoded well-formed instruction gives it back, with the bytes that follow it. -/
def Obligations.DecodeOfEncodeIsTheInstruction : Prop :=
  ∀ (i : Instr) rest, i.wf = true → decodeBytes (encode i ++ rest) = .ok (i, rest)

/-- R90 to R96: a word that decodes is the encoding of the well-formed instruction it decodes to, so no bit of it is lost. -/
def Obligations.EncodeOfDecodeIsTheWord : Prop :=
  ∀ w i, decodeWord w = .ok i → i.wf = true ∧ encodeWord i = w

/-- R95: a word names the instruction of a row exactly when word & mask = match; at most one row matches; a word of no row
is unknown. -/
def Obligations.DecodingIsByMaskAndMatch : Prop :=
  ∀ w : Word,
    (∀ i, decodeWord w = .ok i → (i.rowMask, i.rowMatch) ∈ opcodeRows ∧ w &&& i.rowMask = i.rowMatch) ∧
    (∀ row ∈ opcodeRows, w &&& row.1 = row.2 → ∃ i, decodeWord w = .ok i ∧ (i.rowMask, i.rowMatch) = row) ∧
    (∀ row ∈ opcodeRows, ∀ row' ∈ opcodeRows, w &&& row.1 = row.2 → w &&& row'.1 = row'.2 → row = row') ∧
    ((∀ row ∈ opcodeRows, w &&& row.1 ≠ row.2) → decodeWord w = .error (.unknownOpcode w))

/-- R97: the exhaustive list of unknown words, by family. -/
def Obligations.UnknownWordsAreTheListedOnes : Prop :=
  ∀ w : Word, decodeWord w = .error (.unknownOpcode w) ↔
    (familyOf w = 0x0#4 ∧ w ≠ 0x00E0#16 ∧ w ≠ 0x00EE#16) ∨
    (familyOf w = 0x5#4 ∧ nOf w ≠ 0x0#4) ∨
    (familyOf w = 0x8#4 ∧ nOf w ∈ [0x8#4, 0x9#4, 0xA#4, 0xB#4, 0xC#4, 0xD#4, 0xF#4]) ∨
    (familyOf w = 0x9#4 ∧ nOf w ≠ 0x0#4) ∨
    (familyOf w = 0xE#4 ∧ kkOf w ∉ [0x9E#8, 0xA1#8]) ∨
    (familyOf w = 0xF#4 ∧ kkOf w ∉ [0x07#8, 0x0A#8, 0x15#8, 0x18#8, 0x1E#8, 0x29#8, 0x33#8, 0x55#8, 0x65#8])

/-! ## Invariants -/

/-- The invariants hold after reset. That memory has a canonical form is the model's choice (log entry 1). -/
def Obligations.ResetMeetsTheInvariants : Prop := State.reset.Inv ∧ State.reset.RecordExplained

/-- Every step keeps them: memory in its canonical form, which is the model's choice (log entry 1), with no cell outside
R60's 0x000–0xFFF; PC at most 0x10FE and return addresses at most 0xFFE (R25), the record clear while not halted (R35), no
wait in a halted state, boot as R272 has it (`started`: log entry 4). -/
def Obligations.EveryStepKeepsTheInvariants : Prop :=
  ∀ s t, s.Inv → step s = .next t → t.Inv

/-- R231, R232: every step keeps the fault record true to the state it halted in: the instruction at FPC has that fault there. -/
def Obligations.EveryStepKeepsTheRecordExplained : Prop :=
  ∀ s t, s.Inv → s.RecordExplained → step s = .next t → t.RecordExplained
end

