-- ==== Sys2Proof/Laws/Decode.lean ====
section
/-! SUPPORT. The fields of an encoded word, format by format (spec 30_encoding.md R90, R94). -/

namespace Sys2Proof

@[simp] theorem Nibble.toIndex_toNibble (x : Index16) : Nibble.toIndex (Index16.toNibble x) = x := by
  apply Fin.ext
  have := x.isLt
  simp [Nibble.toIndex, Index16.toNibble]

@[simp] theorem Index16.toNibble_toIndex (b : Nibble) : Index16.toNibble (Nibble.toIndex b) = b := by
  simp [Nibble.toIndex, Index16.toNibble]

/-! Each field of each format, bit by bit. -/

@[simp] theorem familyOf_wordNNN (f : Nibble) (nnn : Addr12) : familyOf (wordNNN f nnn) = f := by
  apply BitVec.eq_of_getLsbD_eq
  intro j hj
  simp only [familyOf, wordNNN, BitVec.getLsbD_extractLsb', BitVec.getLsbD_append]
  simp [hj]

@[simp] theorem nnnOf_wordNNN (f : Nibble) (nnn : Addr12) : nnnOf (wordNNN f nnn) = nnn := by
  apply BitVec.eq_of_getLsbD_eq
  intro j hj
  simp only [nnnOf, wordNNN, BitVec.getLsbD_extractLsb', BitVec.getLsbD_append]
  simp [hj]

@[simp] theorem familyOf_wordXKK (f : Nibble) (x : Index16) (kk : Byte) : familyOf (wordXKK f x kk) = f := by
  apply BitVec.eq_of_getLsbD_eq
  intro j hj
  simp only [familyOf, wordXKK, BitVec.getLsbD_extractLsb', BitVec.getLsbD_append]
  have h1 : ¬(12 + j < 8) := by omega
  have h2 : ¬(12 + j - 8 < 4) := by omega
  have h3 : 12 + j - 8 - 4 = j := by omega
  simp [hj, h1, h2, h3]

@[simp] theorem xOf_wordXKK (f : Nibble) (x : Index16) (kk : Byte) : xOf (wordXKK f x kk) = x.toNibble := by
  apply BitVec.eq_of_getLsbD_eq
  intro j hj
  simp only [xOf, wordXKK, BitVec.getLsbD_extractLsb', BitVec.getLsbD_append]
  have h1 : ¬(8 + j < 8) := by omega
  simp [hj, h1]

@[simp] theorem kkOf_wordXKK (f : Nibble) (x : Index16) (kk : Byte) : kkOf (wordXKK f x kk) = kk := by
  apply BitVec.eq_of_getLsbD_eq
  intro j hj
  simp only [kkOf, wordXKK, BitVec.getLsbD_extractLsb', BitVec.getLsbD_append]
  simp [hj]

@[simp] theorem familyOf_wordXYN (f : Nibble) (x y : Index16) (n : Nibble) : familyOf (wordXYN f x y n) = f := by
  apply BitVec.eq_of_getLsbD_eq
  intro j hj
  simp only [familyOf, wordXYN, BitVec.getLsbD_extractLsb', BitVec.getLsbD_append]
  have h1 : ¬(12 + j < 4) := by omega
  have h2 : ¬(12 + j - 4 < 4) := by omega
  have h3 : ¬(12 + j - 4 - 4 < 4) := by omega
  have h4 : 12 + j - 4 - 4 - 4 = j := by omega
  simp [hj, h1, h2, h3, h4]

@[simp] theorem xOf_wordXYN (f : Nibble) (x y : Index16) (n : Nibble) : xOf (wordXYN f x y n) = x.toNibble := by
  apply BitVec.eq_of_getLsbD_eq
  intro j hj
  simp only [xOf, wordXYN, BitVec.getLsbD_extractLsb', BitVec.getLsbD_append]
  have h1 : ¬(8 + j < 4) := by omega
  have h2 : ¬(8 + j - 4 < 4) := by omega
  have h3 : 8 + j - 4 - 4 = j := by omega
  simp [hj, h1, h2, h3]

@[simp] theorem yOf_wordXYN (f : Nibble) (x y : Index16) (n : Nibble) : yOf (wordXYN f x y n) = y.toNibble := by
  apply BitVec.eq_of_getLsbD_eq
  intro j hj
  simp only [yOf, wordXYN, BitVec.getLsbD_extractLsb', BitVec.getLsbD_append]
  have h1 : ¬(4 + j < 4) := by omega
  simp [hj, h1]

@[simp] theorem nOf_wordXYN (f : Nibble) (x y : Index16) (n : Nibble) : nOf (wordXYN f x y n) = n := by
  apply BitVec.eq_of_getLsbD_eq
  intro j hj
  simp only [nOf, wordXYN, BitVec.getLsbD_extractLsb', BitVec.getLsbD_append]
  simp [hj]

/-! A word is rebuilt from its fields. -/

theorem wordNNN_fields (w : Word) : wordNNN (familyOf w) (nnnOf w) = w := by
  apply BitVec.eq_of_getLsbD_eq
  intro j hj
  simp only [familyOf, nnnOf, wordNNN, BitVec.getLsbD_extractLsb', BitVec.getLsbD_append]
  split
  · simp [*]
  · have h1 : j - 12 < 4 := by omega
    have h2 : 12 + (j - 12) = j := by omega
    simp [h1, h2]

theorem wordXKK_fields (w : Word) : wordXKK (familyOf w) (xOf w).toIndex (kkOf w) = w := by
  apply BitVec.eq_of_getLsbD_eq
  intro j hj
  simp only [familyOf, xOf, kkOf, wordXKK, BitVec.getLsbD_extractLsb', BitVec.getLsbD_append,
    Index16.toNibble_toIndex]
  split
  · simp [*]
  · split
    · have h2 : 8 + (j - 8) = j := by omega
      simp [*]
    · have h1 : j - 8 - 4 < 4 := by omega
      have h2 : 12 + (j - 8 - 4) = j := by omega
      simp [h1, h2]

theorem wordXYN_fields (w : Word) : wordXYN (familyOf w) (xOf w).toIndex (yOf w).toIndex (nOf w) = w := by
  apply BitVec.eq_of_getLsbD_eq
  intro j hj
  simp only [familyOf, xOf, yOf, nOf, wordXYN, BitVec.getLsbD_extractLsb', BitVec.getLsbD_append,
    Index16.toNibble_toIndex]
  split
  · simp [*]
  · split
    · have h2 : 4 + (j - 4) = j := by omega
      simp [*]
    · split
      · have h2 : 8 + (j - 4 - 4) = j := by omega
        simp [*]
      · have h1 : j - 4 - 4 - 4 < 4 := by omega
        have h2 : 12 + (j - 4 - 4 - 4) = j := by omega
        simp [h1, h2]

/-- A word's two bytes, high one first, make the word again (R65). -/
@[simp] theorem wordOfBytes_split (w : Word) : wordOfBytes (highByte w) (lowByte w) = w := by
  apply BitVec.eq_of_getLsbD_eq
  intro j hj
  simp only [wordOfBytes, highByte, lowByte, BitVec.getLsbD_extractLsb', BitVec.getLsbD_append]
  split
  · simp [*]
  · have h1 : j - 8 < 8 := by omega
    have h2 : 8 + (j - 8) = j := by omega
    simp [h1, h2]

/-- Decoding a word's bytes is decoding the word, and leaves the bytes that follow. -/
theorem decodeBytes_split (w : Word) (rest : List Byte) :
    decodeBytes (highByte w :: lowByte w :: rest) =
      match decodeWord w with
      | .ok i => .ok (i, rest)
      | .error e => .error e := by
  cases h : decodeWord w <;> simp only [decodeBytes, wordOfBytes_split, h]

/-- The only rejection of a word is R97's, by name and with the word itself. -/
theorem decodeWord_error {w : Word} {e : DecodeError} (h : decodeWord w = .error e) : e = .unknownOpcode w := by
  unfold decodeWord decodeFamily0 decodeFamily5 decodeFamily8 decodeFamily9 decodeFamilyE decodeFamilyF at h
  repeat' split at h
  all_goals first
    | exact (Except.error.inj h).symm
    | cases h

/-- A word of format NNN under R94's mask keeps only its family. -/
theorem wordNNN_mask (f : Nibble) (nnn : Addr12) : wordNNN f nnn &&& 0xF000#16 = f ++ 0x000#12 := by
  apply BitVec.eq_of_getLsbD_eq
  intro j hj
  simp only [wordNNN, BitVec.getLsbD_and, BitVec.getLsbD_append]
  interval_cases j <;> simp

theorem wordXKK_mask (f : Nibble) (x : Index16) (kk : Byte) : wordXKK f x kk &&& 0xF000#16 = f ++ 0x000#12 := by
  apply BitVec.eq_of_getLsbD_eq
  intro j hj
  simp only [wordXKK, BitVec.getLsbD_and, BitVec.getLsbD_append]
  interval_cases j <;> simp

theorem wordXKK_maskX (f : Nibble) (x : Index16) (kk : Byte) :
    wordXKK f x kk &&& 0xF0FF#16 = f ++ 0x0#4 ++ kk := by
  apply BitVec.eq_of_getLsbD_eq
  intro j hj
  simp only [wordXKK, BitVec.getLsbD_and, BitVec.getLsbD_append]
  interval_cases j <;> simp

theorem wordXYN_mask (f : Nibble) (x y : Index16) (n : Nibble) : wordXYN f x y n &&& 0xF000#16 = f ++ 0x000#12 := by
  apply BitVec.eq_of_getLsbD_eq
  intro j hj
  simp only [wordXYN, BitVec.getLsbD_and, BitVec.getLsbD_append]
  interval_cases j <;> simp

theorem wordXYN_maskXY (f : Nibble) (x y : Index16) (n : Nibble) :
    wordXYN f x y n &&& 0xF00F#16 = f ++ 0x00#8 ++ n := by
  apply BitVec.eq_of_getLsbD_eq
  intro j hj
  simp only [wordXYN, BitVec.getLsbD_and, BitVec.getLsbD_append]
  interval_cases j <;> simp

end Sys2Proof
end

