-- ==== Sys2Proof/Laws/State.lean ====
section
/-! SUPPORT. One lemma per field per update of State, so that no proof unfolds an update. -/

namespace Sys2Proof.Machine

/-! ### `setReg` -/

@[simp] theorem State.setReg_v (s : State) (x : Index16) (b : Byte) : (s.setReg x b).v = s.v.set x b := rfl
@[simp] theorem State.setReg_pc (s : State) (x : Index16) (b : Byte) : (s.setReg x b).pc = s.pc := rfl
@[simp] theorem State.setReg_depth (s : State) (x : Index16) (b : Byte) : (s.setReg x b).depth = s.depth := rfl
@[simp] theorem State.setReg_stack (s : State) (x : Index16) (b : Byte) : (s.setReg x b).stack = s.stack := rfl
@[simp] theorem State.setReg_i (s : State) (x : Index16) (b : Byte) : (s.setReg x b).i = s.i := rfl
@[simp] theorem State.setReg_dt (s : State) (x : Index16) (b : Byte) : (s.setReg x b).dt = s.dt := rfl
@[simp] theorem State.setReg_st (s : State) (x : Index16) (b : Byte) : (s.setReg x b).st = s.st := rfl
@[simp] theorem State.setReg_disp (s : State) (x : Index16) (b : Byte) : (s.setReg x b).disp = s.disp := rfl
@[simp] theorem State.setReg_keys (s : State) (x : Index16) (b : Byte) : (s.setReg x b).keys = s.keys := rfl
@[simp] theorem State.setReg_wait (s : State) (x : Index16) (b : Byte) : (s.setReg x b).wait = s.wait := rfl
@[simp] theorem State.setReg_halt (s : State) (x : Index16) (b : Byte) : (s.setReg x b).halt = s.halt := rfl
@[simp] theorem State.setReg_fcause (s : State) (x : Index16) (b : Byte) : (s.setReg x b).fcause = s.fcause := rfl
@[simp] theorem State.setReg_fpc (s : State) (x : Index16) (b : Byte) : (s.setReg x b).fpc = s.fpc := rfl
@[simp] theorem State.setReg_fword (s : State) (x : Index16) (b : Byte) : (s.setReg x b).fword = s.fword := rfl
@[simp] theorem State.setReg_faddr (s : State) (x : Index16) (b : Byte) : (s.setReg x b).faddr = s.faddr := rfl
@[simp] theorem State.setReg_mem (s : State) (x : Index16) (b : Byte) : (s.setReg x b).mem = s.mem := rfl
@[simp] theorem State.setReg_started (s : State) (x : Index16) (b : Byte) : (s.setReg x b).started = s.started := rfl
@[simp] theorem State.setReg_stopped (s : State) (x : Index16) (b : Byte) : (s.setReg x b).stopped = s.stopped := rfl
@[simp] theorem State.setReg_sched (s : State) (x : Index16) (b : Byte) : (s.setReg x b).sched = s.sched := rfl
@[simp] theorem State.setReg_rndIn (s : State) (x : Index16) (b : Byte) : (s.setReg x b).rndIn = s.rndIn := rfl
@[simp] theorem State.setReg_draws (s : State) (x : Index16) (b : Byte) : (s.setReg x b).draws = s.draws := rfl

/-! ### `advance` -/

@[simp] theorem State.advance_v (s : State) : (s.advance).v = s.v := rfl
@[simp] theorem State.advance_pc (s : State) : (s.advance).pc = s.pc + 2#16 := rfl
@[simp] theorem State.advance_depth (s : State) : (s.advance).depth = s.depth := rfl
@[simp] theorem State.advance_stack (s : State) : (s.advance).stack = s.stack := rfl
@[simp] theorem State.advance_i (s : State) : (s.advance).i = s.i := rfl
@[simp] theorem State.advance_dt (s : State) : (s.advance).dt = s.dt := rfl
@[simp] theorem State.advance_st (s : State) : (s.advance).st = s.st := rfl
@[simp] theorem State.advance_disp (s : State) : (s.advance).disp = s.disp := rfl
@[simp] theorem State.advance_keys (s : State) : (s.advance).keys = s.keys := rfl
@[simp] theorem State.advance_wait (s : State) : (s.advance).wait = s.wait := rfl
@[simp] theorem State.advance_halt (s : State) : (s.advance).halt = s.halt := rfl
@[simp] theorem State.advance_fcause (s : State) : (s.advance).fcause = s.fcause := rfl
@[simp] theorem State.advance_fpc (s : State) : (s.advance).fpc = s.fpc := rfl
@[simp] theorem State.advance_fword (s : State) : (s.advance).fword = s.fword := rfl
@[simp] theorem State.advance_faddr (s : State) : (s.advance).faddr = s.faddr := rfl
@[simp] theorem State.advance_mem (s : State) : (s.advance).mem = s.mem := rfl
@[simp] theorem State.advance_started (s : State) : (s.advance).started = s.started := rfl
@[simp] theorem State.advance_stopped (s : State) : (s.advance).stopped = s.stopped := rfl
@[simp] theorem State.advance_sched (s : State) : (s.advance).sched = s.sched := rfl
@[simp] theorem State.advance_rndIn (s : State) : (s.advance).rndIn = s.rndIn := rfl
@[simp] theorem State.advance_draws (s : State) : (s.advance).draws = s.draws := rfl

/-! ### `jump` -/

@[simp] theorem State.jump_v (s : State) (w : Word) : (s.jump w).v = s.v := rfl
@[simp] theorem State.jump_pc (s : State) (w : Word) : (s.jump w).pc = w := rfl
@[simp] theorem State.jump_depth (s : State) (w : Word) : (s.jump w).depth = s.depth := rfl
@[simp] theorem State.jump_stack (s : State) (w : Word) : (s.jump w).stack = s.stack := rfl
@[simp] theorem State.jump_i (s : State) (w : Word) : (s.jump w).i = s.i := rfl
@[simp] theorem State.jump_dt (s : State) (w : Word) : (s.jump w).dt = s.dt := rfl
@[simp] theorem State.jump_st (s : State) (w : Word) : (s.jump w).st = s.st := rfl
@[simp] theorem State.jump_disp (s : State) (w : Word) : (s.jump w).disp = s.disp := rfl
@[simp] theorem State.jump_keys (s : State) (w : Word) : (s.jump w).keys = s.keys := rfl
@[simp] theorem State.jump_wait (s : State) (w : Word) : (s.jump w).wait = s.wait := rfl
@[simp] theorem State.jump_halt (s : State) (w : Word) : (s.jump w).halt = s.halt := rfl
@[simp] theorem State.jump_fcause (s : State) (w : Word) : (s.jump w).fcause = s.fcause := rfl
@[simp] theorem State.jump_fpc (s : State) (w : Word) : (s.jump w).fpc = s.fpc := rfl
@[simp] theorem State.jump_fword (s : State) (w : Word) : (s.jump w).fword = s.fword := rfl
@[simp] theorem State.jump_faddr (s : State) (w : Word) : (s.jump w).faddr = s.faddr := rfl
@[simp] theorem State.jump_mem (s : State) (w : Word) : (s.jump w).mem = s.mem := rfl
@[simp] theorem State.jump_started (s : State) (w : Word) : (s.jump w).started = s.started := rfl
@[simp] theorem State.jump_stopped (s : State) (w : Word) : (s.jump w).stopped = s.stopped := rfl
@[simp] theorem State.jump_sched (s : State) (w : Word) : (s.jump w).sched = s.sched := rfl
@[simp] theorem State.jump_rndIn (s : State) (w : Word) : (s.jump w).rndIn = s.rndIn := rfl
@[simp] theorem State.jump_draws (s : State) (w : Word) : (s.jump w).draws = s.draws := rfl

/-! ### `skipIf` -/

@[simp] theorem State.skipIf_v (s : State) (c : Bool) : (s.skipIf c).v = s.v := rfl
@[simp] theorem State.skipIf_pc (s : State) (c : Bool) : (s.skipIf c).pc = if c then s.pc + 4#16 else s.pc + 2#16 := rfl
@[simp] theorem State.skipIf_depth (s : State) (c : Bool) : (s.skipIf c).depth = s.depth := rfl
@[simp] theorem State.skipIf_stack (s : State) (c : Bool) : (s.skipIf c).stack = s.stack := rfl
@[simp] theorem State.skipIf_i (s : State) (c : Bool) : (s.skipIf c).i = s.i := rfl
@[simp] theorem State.skipIf_dt (s : State) (c : Bool) : (s.skipIf c).dt = s.dt := rfl
@[simp] theorem State.skipIf_st (s : State) (c : Bool) : (s.skipIf c).st = s.st := rfl
@[simp] theorem State.skipIf_disp (s : State) (c : Bool) : (s.skipIf c).disp = s.disp := rfl
@[simp] theorem State.skipIf_keys (s : State) (c : Bool) : (s.skipIf c).keys = s.keys := rfl
@[simp] theorem State.skipIf_wait (s : State) (c : Bool) : (s.skipIf c).wait = s.wait := rfl
@[simp] theorem State.skipIf_halt (s : State) (c : Bool) : (s.skipIf c).halt = s.halt := rfl
@[simp] theorem State.skipIf_fcause (s : State) (c : Bool) : (s.skipIf c).fcause = s.fcause := rfl
@[simp] theorem State.skipIf_fpc (s : State) (c : Bool) : (s.skipIf c).fpc = s.fpc := rfl
@[simp] theorem State.skipIf_fword (s : State) (c : Bool) : (s.skipIf c).fword = s.fword := rfl
@[simp] theorem State.skipIf_faddr (s : State) (c : Bool) : (s.skipIf c).faddr = s.faddr := rfl
@[simp] theorem State.skipIf_mem (s : State) (c : Bool) : (s.skipIf c).mem = s.mem := rfl
@[simp] theorem State.skipIf_started (s : State) (c : Bool) : (s.skipIf c).started = s.started := rfl
@[simp] theorem State.skipIf_stopped (s : State) (c : Bool) : (s.skipIf c).stopped = s.stopped := rfl
@[simp] theorem State.skipIf_sched (s : State) (c : Bool) : (s.skipIf c).sched = s.sched := rfl
@[simp] theorem State.skipIf_rndIn (s : State) (c : Bool) : (s.skipIf c).rndIn = s.rndIn := rfl
@[simp] theorem State.skipIf_draws (s : State) (c : Bool) : (s.skipIf c).draws = s.draws := rfl

/-! ### `raise` -/

@[simp] theorem State.raise_v (s : State) (c : Cause) (w : Word) : (s.raise c w).v = s.v := rfl
@[simp] theorem State.raise_pc (s : State) (c : Cause) (w : Word) : (s.raise c w).pc = s.pc := rfl
@[simp] theorem State.raise_depth (s : State) (c : Cause) (w : Word) : (s.raise c w).depth = s.depth := rfl
@[simp] theorem State.raise_stack (s : State) (c : Cause) (w : Word) : (s.raise c w).stack = s.stack := rfl
@[simp] theorem State.raise_i (s : State) (c : Cause) (w : Word) : (s.raise c w).i = s.i := rfl
@[simp] theorem State.raise_dt (s : State) (c : Cause) (w : Word) : (s.raise c w).dt = s.dt := rfl
@[simp] theorem State.raise_st (s : State) (c : Cause) (w : Word) : (s.raise c w).st = s.st := rfl
@[simp] theorem State.raise_disp (s : State) (c : Cause) (w : Word) : (s.raise c w).disp = s.disp := rfl
@[simp] theorem State.raise_keys (s : State) (c : Cause) (w : Word) : (s.raise c w).keys = s.keys := rfl
@[simp] theorem State.raise_wait (s : State) (c : Cause) (w : Word) : (s.raise c w).wait = s.wait := rfl
@[simp] theorem State.raise_halt (s : State) (c : Cause) (w : Word) : (s.raise c w).halt = true := rfl
@[simp] theorem State.raise_fcause (s : State) (c : Cause) (w : Word) : (s.raise c w).fcause = c := rfl
@[simp] theorem State.raise_fpc (s : State) (c : Cause) (w : Word) : (s.raise c w).fpc = s.pc := rfl
@[simp] theorem State.raise_fword (s : State) (c : Cause) (w : Word) : (s.raise c w).fword = faultWord c w := rfl
@[simp] theorem State.raise_faddr (s : State) (c : Cause) (w : Word) : (s.raise c w).faddr = s.faultAddr c := rfl
@[simp] theorem State.raise_mem (s : State) (c : Cause) (w : Word) : (s.raise c w).mem = s.mem := rfl
@[simp] theorem State.raise_started (s : State) (c : Cause) (w : Word) : (s.raise c w).started = s.started := rfl
@[simp] theorem State.raise_stopped (s : State) (c : Cause) (w : Word) : (s.raise c w).stopped = s.stopped := rfl
@[simp] theorem State.raise_sched (s : State) (c : Cause) (w : Word) : (s.raise c w).sched = s.sched := rfl
@[simp] theorem State.raise_rndIn (s : State) (c : Cause) (w : Word) : (s.raise c w).rndIn = s.rndIn := rfl
@[simp] theorem State.raise_draws (s : State) (c : Cause) (w : Word) : (s.raise c w).draws = s.draws := rfl

/-! ### `finish` -/

@[simp] theorem State.finish_v (s : State) (x : Index16) (r : Byte) : (s.finish x r).v = s.v.set x r := rfl
@[simp] theorem State.finish_pc (s : State) (x : Index16) (r : Byte) : (s.finish x r).pc = s.pc + 2#16 := rfl
@[simp] theorem State.finish_depth (s : State) (x : Index16) (r : Byte) : (s.finish x r).depth = s.depth := rfl
@[simp] theorem State.finish_stack (s : State) (x : Index16) (r : Byte) : (s.finish x r).stack = s.stack := rfl
@[simp] theorem State.finish_i (s : State) (x : Index16) (r : Byte) : (s.finish x r).i = s.i := rfl
@[simp] theorem State.finish_dt (s : State) (x : Index16) (r : Byte) : (s.finish x r).dt = s.dt := rfl
@[simp] theorem State.finish_st (s : State) (x : Index16) (r : Byte) : (s.finish x r).st = s.st := rfl
@[simp] theorem State.finish_disp (s : State) (x : Index16) (r : Byte) : (s.finish x r).disp = s.disp := rfl
@[simp] theorem State.finish_keys (s : State) (x : Index16) (r : Byte) : (s.finish x r).keys = s.keys := rfl
@[simp] theorem State.finish_wait (s : State) (x : Index16) (r : Byte) : (s.finish x r).wait = s.wait := rfl
@[simp] theorem State.finish_halt (s : State) (x : Index16) (r : Byte) : (s.finish x r).halt = s.halt := rfl
@[simp] theorem State.finish_fcause (s : State) (x : Index16) (r : Byte) : (s.finish x r).fcause = s.fcause := rfl
@[simp] theorem State.finish_fpc (s : State) (x : Index16) (r : Byte) : (s.finish x r).fpc = s.fpc := rfl
@[simp] theorem State.finish_fword (s : State) (x : Index16) (r : Byte) : (s.finish x r).fword = s.fword := rfl
@[simp] theorem State.finish_faddr (s : State) (x : Index16) (r : Byte) : (s.finish x r).faddr = s.faddr := rfl
@[simp] theorem State.finish_mem (s : State) (x : Index16) (r : Byte) : (s.finish x r).mem = s.mem := rfl
@[simp] theorem State.finish_started (s : State) (x : Index16) (r : Byte) : (s.finish x r).started = s.started := rfl
@[simp] theorem State.finish_stopped (s : State) (x : Index16) (r : Byte) : (s.finish x r).stopped = s.stopped := rfl
@[simp] theorem State.finish_sched (s : State) (x : Index16) (r : Byte) : (s.finish x r).sched = s.sched := rfl
@[simp] theorem State.finish_rndIn (s : State) (x : Index16) (r : Byte) : (s.finish x r).rndIn = s.rndIn := rfl
@[simp] theorem State.finish_draws (s : State) (x : Index16) (r : Byte) : (s.finish x r).draws = s.draws := rfl

/-! ### `finishFlag` -/

@[simp] theorem State.finishFlag_v (s : State) (x : Index16) (f r : Byte) : (s.finishFlag x f r).v = (s.v.set vF f).set x r := rfl
@[simp] theorem State.finishFlag_pc (s : State) (x : Index16) (f r : Byte) : (s.finishFlag x f r).pc = s.pc + 2#16 := rfl
@[simp] theorem State.finishFlag_depth (s : State) (x : Index16) (f r : Byte) : (s.finishFlag x f r).depth = s.depth := rfl
@[simp] theorem State.finishFlag_stack (s : State) (x : Index16) (f r : Byte) : (s.finishFlag x f r).stack = s.stack := rfl
@[simp] theorem State.finishFlag_i (s : State) (x : Index16) (f r : Byte) : (s.finishFlag x f r).i = s.i := rfl
@[simp] theorem State.finishFlag_dt (s : State) (x : Index16) (f r : Byte) : (s.finishFlag x f r).dt = s.dt := rfl
@[simp] theorem State.finishFlag_st (s : State) (x : Index16) (f r : Byte) : (s.finishFlag x f r).st = s.st := rfl
@[simp] theorem State.finishFlag_disp (s : State) (x : Index16) (f r : Byte) : (s.finishFlag x f r).disp = s.disp := rfl
@[simp] theorem State.finishFlag_keys (s : State) (x : Index16) (f r : Byte) : (s.finishFlag x f r).keys = s.keys := rfl
@[simp] theorem State.finishFlag_wait (s : State) (x : Index16) (f r : Byte) : (s.finishFlag x f r).wait = s.wait := rfl
@[simp] theorem State.finishFlag_halt (s : State) (x : Index16) (f r : Byte) : (s.finishFlag x f r).halt = s.halt := rfl
@[simp] theorem State.finishFlag_fcause (s : State) (x : Index16) (f r : Byte) : (s.finishFlag x f r).fcause = s.fcause := rfl
@[simp] theorem State.finishFlag_fpc (s : State) (x : Index16) (f r : Byte) : (s.finishFlag x f r).fpc = s.fpc := rfl
@[simp] theorem State.finishFlag_fword (s : State) (x : Index16) (f r : Byte) : (s.finishFlag x f r).fword = s.fword := rfl
@[simp] theorem State.finishFlag_faddr (s : State) (x : Index16) (f r : Byte) : (s.finishFlag x f r).faddr = s.faddr := rfl
@[simp] theorem State.finishFlag_mem (s : State) (x : Index16) (f r : Byte) : (s.finishFlag x f r).mem = s.mem := rfl
@[simp] theorem State.finishFlag_started (s : State) (x : Index16) (f r : Byte) : (s.finishFlag x f r).started = s.started := rfl
@[simp] theorem State.finishFlag_stopped (s : State) (x : Index16) (f r : Byte) : (s.finishFlag x f r).stopped = s.stopped := rfl
@[simp] theorem State.finishFlag_sched (s : State) (x : Index16) (f r : Byte) : (s.finishFlag x f r).sched = s.sched := rfl
@[simp] theorem State.finishFlag_rndIn (s : State) (x : Index16) (f r : Byte) : (s.finishFlag x f r).rndIn = s.rndIn := rfl
@[simp] theorem State.finishFlag_draws (s : State) (x : Index16) (f r : Byte) : (s.finishFlag x f r).draws = s.draws := rfl

/-! ### `keySet` -/

@[simp] theorem State.keySet_v (s : State) (k : Index16) (b : Bool) : (s.keySet k b).v = s.v := rfl
@[simp] theorem State.keySet_pc (s : State) (k : Index16) (b : Bool) : (s.keySet k b).pc = s.pc := rfl
@[simp] theorem State.keySet_depth (s : State) (k : Index16) (b : Bool) : (s.keySet k b).depth = s.depth := rfl
@[simp] theorem State.keySet_stack (s : State) (k : Index16) (b : Bool) : (s.keySet k b).stack = s.stack := rfl
@[simp] theorem State.keySet_i (s : State) (k : Index16) (b : Bool) : (s.keySet k b).i = s.i := rfl
@[simp] theorem State.keySet_dt (s : State) (k : Index16) (b : Bool) : (s.keySet k b).dt = s.dt := rfl
@[simp] theorem State.keySet_st (s : State) (k : Index16) (b : Bool) : (s.keySet k b).st = s.st := rfl
@[simp] theorem State.keySet_disp (s : State) (k : Index16) (b : Bool) : (s.keySet k b).disp = s.disp := rfl
@[simp] theorem State.keySet_keys (s : State) (k : Index16) (b : Bool) : (s.keySet k b).keys = s.keys.set k b := rfl
@[simp] theorem State.keySet_wait (s : State) (k : Index16) (b : Bool) : (s.keySet k b).wait = s.wait := rfl
@[simp] theorem State.keySet_halt (s : State) (k : Index16) (b : Bool) : (s.keySet k b).halt = s.halt := rfl
@[simp] theorem State.keySet_fcause (s : State) (k : Index16) (b : Bool) : (s.keySet k b).fcause = s.fcause := rfl
@[simp] theorem State.keySet_fpc (s : State) (k : Index16) (b : Bool) : (s.keySet k b).fpc = s.fpc := rfl
@[simp] theorem State.keySet_fword (s : State) (k : Index16) (b : Bool) : (s.keySet k b).fword = s.fword := rfl
@[simp] theorem State.keySet_faddr (s : State) (k : Index16) (b : Bool) : (s.keySet k b).faddr = s.faddr := rfl
@[simp] theorem State.keySet_mem (s : State) (k : Index16) (b : Bool) : (s.keySet k b).mem = s.mem := rfl
@[simp] theorem State.keySet_started (s : State) (k : Index16) (b : Bool) : (s.keySet k b).started = s.started := rfl
@[simp] theorem State.keySet_stopped (s : State) (k : Index16) (b : Bool) : (s.keySet k b).stopped = s.stopped := rfl
@[simp] theorem State.keySet_sched (s : State) (k : Index16) (b : Bool) : (s.keySet k b).sched = s.sched := rfl
@[simp] theorem State.keySet_rndIn (s : State) (k : Index16) (b : Bool) : (s.keySet k b).rndIn = s.rndIn := rfl
@[simp] theorem State.keySet_draws (s : State) (k : Index16) (b : Bool) : (s.keySet k b).draws = s.draws := rfl

/-! ### `stop` -/

@[simp] theorem State.stop_v (s : State) : (s.stop).v = s.v := rfl
@[simp] theorem State.stop_pc (s : State) : (s.stop).pc = s.pc := rfl
@[simp] theorem State.stop_depth (s : State) : (s.stop).depth = s.depth := rfl
@[simp] theorem State.stop_stack (s : State) : (s.stop).stack = s.stack := rfl
@[simp] theorem State.stop_i (s : State) : (s.stop).i = s.i := rfl
@[simp] theorem State.stop_dt (s : State) : (s.stop).dt = s.dt := rfl
@[simp] theorem State.stop_st (s : State) : (s.stop).st = s.st := rfl
@[simp] theorem State.stop_disp (s : State) : (s.stop).disp = s.disp := rfl
@[simp] theorem State.stop_keys (s : State) : (s.stop).keys = s.keys := rfl
@[simp] theorem State.stop_wait (s : State) : (s.stop).wait = s.wait := rfl
@[simp] theorem State.stop_halt (s : State) : (s.stop).halt = s.halt := rfl
@[simp] theorem State.stop_fcause (s : State) : (s.stop).fcause = s.fcause := rfl
@[simp] theorem State.stop_fpc (s : State) : (s.stop).fpc = s.fpc := rfl
@[simp] theorem State.stop_fword (s : State) : (s.stop).fword = s.fword := rfl
@[simp] theorem State.stop_faddr (s : State) : (s.stop).faddr = s.faddr := rfl
@[simp] theorem State.stop_mem (s : State) : (s.stop).mem = s.mem := rfl
@[simp] theorem State.stop_started (s : State) : (s.stop).started = s.started := rfl
@[simp] theorem State.stop_stopped (s : State) : (s.stop).stopped = true := rfl
@[simp] theorem State.stop_sched (s : State) : (s.stop).sched = s.sched := rfl
@[simp] theorem State.stop_rndIn (s : State) : (s.stop).rndIn = s.rndIn := rfl
@[simp] theorem State.stop_draws (s : State) : (s.stop).draws = s.draws := rfl

/-! ### `begin` -/

@[simp] theorem State.begin_v (s : State) : (s.begin).v = s.v := rfl
@[simp] theorem State.begin_pc (s : State) : (s.begin).pc = s.pc := rfl
@[simp] theorem State.begin_depth (s : State) : (s.begin).depth = s.depth := rfl
@[simp] theorem State.begin_stack (s : State) : (s.begin).stack = s.stack := rfl
@[simp] theorem State.begin_i (s : State) : (s.begin).i = s.i := rfl
@[simp] theorem State.begin_dt (s : State) : (s.begin).dt = s.dt := rfl
@[simp] theorem State.begin_st (s : State) : (s.begin).st = s.st := rfl
@[simp] theorem State.begin_disp (s : State) : (s.begin).disp = s.disp := rfl
@[simp] theorem State.begin_keys (s : State) : (s.begin).keys = s.keys := rfl
@[simp] theorem State.begin_wait (s : State) : (s.begin).wait = s.wait := rfl
@[simp] theorem State.begin_halt (s : State) : (s.begin).halt = s.halt := rfl
@[simp] theorem State.begin_fcause (s : State) : (s.begin).fcause = s.fcause := rfl
@[simp] theorem State.begin_fpc (s : State) : (s.begin).fpc = s.fpc := rfl
@[simp] theorem State.begin_fword (s : State) : (s.begin).fword = s.fword := rfl
@[simp] theorem State.begin_faddr (s : State) : (s.begin).faddr = s.faddr := rfl
@[simp] theorem State.begin_mem (s : State) : (s.begin).mem = s.mem := rfl
@[simp] theorem State.begin_started (s : State) : (s.begin).started = true := rfl
@[simp] theorem State.begin_stopped (s : State) : (s.begin).stopped = s.stopped := rfl
@[simp] theorem State.begin_sched (s : State) : (s.begin).sched = s.sched := rfl
@[simp] theorem State.begin_rndIn (s : State) : (s.begin).rndIn = s.rndIn := rfl
@[simp] theorem State.begin_draws (s : State) : (s.begin).draws = s.draws := rfl

/-! ### `takeMove` -/

@[simp] theorem State.takeMove_v (s : State) : (s.takeMove).v = s.v := rfl
@[simp] theorem State.takeMove_pc (s : State) : (s.takeMove).pc = s.pc := rfl
@[simp] theorem State.takeMove_depth (s : State) : (s.takeMove).depth = s.depth := rfl
@[simp] theorem State.takeMove_stack (s : State) : (s.takeMove).stack = s.stack := rfl
@[simp] theorem State.takeMove_i (s : State) : (s.takeMove).i = s.i := rfl
@[simp] theorem State.takeMove_dt (s : State) : (s.takeMove).dt = s.dt := rfl
@[simp] theorem State.takeMove_st (s : State) : (s.takeMove).st = s.st := rfl
@[simp] theorem State.takeMove_disp (s : State) : (s.takeMove).disp = s.disp := rfl
@[simp] theorem State.takeMove_keys (s : State) : (s.takeMove).keys = s.keys := rfl
@[simp] theorem State.takeMove_wait (s : State) : (s.takeMove).wait = s.wait := rfl
@[simp] theorem State.takeMove_halt (s : State) : (s.takeMove).halt = s.halt := rfl
@[simp] theorem State.takeMove_fcause (s : State) : (s.takeMove).fcause = s.fcause := rfl
@[simp] theorem State.takeMove_fpc (s : State) : (s.takeMove).fpc = s.fpc := rfl
@[simp] theorem State.takeMove_fword (s : State) : (s.takeMove).fword = s.fword := rfl
@[simp] theorem State.takeMove_faddr (s : State) : (s.takeMove).faddr = s.faddr := rfl
@[simp] theorem State.takeMove_mem (s : State) : (s.takeMove).mem = s.mem := rfl
@[simp] theorem State.takeMove_started (s : State) : (s.takeMove).started = s.started := rfl
@[simp] theorem State.takeMove_stopped (s : State) : (s.takeMove).stopped = s.stopped := rfl
@[simp] theorem State.takeMove_sched (s : State) : (s.takeMove).sched = s.sched.tail := rfl
@[simp] theorem State.takeMove_rndIn (s : State) : (s.takeMove).rndIn = s.rndIn := rfl
@[simp] theorem State.takeMove_draws (s : State) : (s.takeMove).draws = s.draws := rfl

/-! ### `applyReset` -/

@[simp] theorem State.applyReset_v (s : State) : (s.applyReset).v = State.reset.v := rfl
@[simp] theorem State.applyReset_pc (s : State) : (s.applyReset).pc = State.reset.pc := rfl
@[simp] theorem State.applyReset_depth (s : State) : (s.applyReset).depth = State.reset.depth := rfl
@[simp] theorem State.applyReset_stack (s : State) : (s.applyReset).stack = State.reset.stack := rfl
@[simp] theorem State.applyReset_i (s : State) : (s.applyReset).i = State.reset.i := rfl
@[simp] theorem State.applyReset_dt (s : State) : (s.applyReset).dt = State.reset.dt := rfl
@[simp] theorem State.applyReset_st (s : State) : (s.applyReset).st = State.reset.st := rfl
@[simp] theorem State.applyReset_disp (s : State) : (s.applyReset).disp = State.reset.disp := rfl
@[simp] theorem State.applyReset_keys (s : State) : (s.applyReset).keys = State.reset.keys := rfl
@[simp] theorem State.applyReset_wait (s : State) : (s.applyReset).wait = State.reset.wait := rfl
@[simp] theorem State.applyReset_halt (s : State) : (s.applyReset).halt = State.reset.halt := rfl
@[simp] theorem State.applyReset_fcause (s : State) : (s.applyReset).fcause = State.reset.fcause := rfl
@[simp] theorem State.applyReset_fpc (s : State) : (s.applyReset).fpc = State.reset.fpc := rfl
@[simp] theorem State.applyReset_fword (s : State) : (s.applyReset).fword = State.reset.fword := rfl
@[simp] theorem State.applyReset_faddr (s : State) : (s.applyReset).faddr = State.reset.faddr := rfl
@[simp] theorem State.applyReset_mem (s : State) : (s.applyReset).mem = State.reset.mem := rfl
@[simp] theorem State.applyReset_started (s : State) : (s.applyReset).started = State.reset.started := rfl
@[simp] theorem State.applyReset_stopped (s : State) : (s.applyReset).stopped = State.reset.stopped := rfl
@[simp] theorem State.applyReset_sched (s : State) : (s.applyReset).sched = s.sched := rfl
@[simp] theorem State.applyReset_rndIn (s : State) : (s.applyReset).rndIn = s.rndIn := rfl
@[simp] theorem State.applyReset_draws (s : State) : (s.applyReset).draws = s.draws := rfl

/-! ### `placeWord` -/

@[simp] theorem State.placeWord_v (s : State) (w : Word) : (s.placeWord w).v = s.v := rfl
@[simp] theorem State.placeWord_pc (s : State) (w : Word) : (s.placeWord w).pc = s.fetchAddr := rfl
@[simp] theorem State.placeWord_depth (s : State) (w : Word) : (s.placeWord w).depth = s.depth := rfl
@[simp] theorem State.placeWord_stack (s : State) (w : Word) : (s.placeWord w).stack = s.stack := rfl
@[simp] theorem State.placeWord_i (s : State) (w : Word) : (s.placeWord w).i = s.i := rfl
@[simp] theorem State.placeWord_dt (s : State) (w : Word) : (s.placeWord w).dt = s.dt := rfl
@[simp] theorem State.placeWord_st (s : State) (w : Word) : (s.placeWord w).st = s.st := rfl
@[simp] theorem State.placeWord_disp (s : State) (w : Word) : (s.placeWord w).disp = s.disp := rfl
@[simp] theorem State.placeWord_keys (s : State) (w : Word) : (s.placeWord w).keys = s.keys := rfl
@[simp] theorem State.placeWord_wait (s : State) (w : Word) : (s.placeWord w).wait = none := rfl
@[simp] theorem State.placeWord_halt (s : State) (w : Word) : (s.placeWord w).halt = false := rfl
@[simp] theorem State.placeWord_fcause (s : State) (w : Word) : (s.placeWord w).fcause = s.fcause := rfl
@[simp] theorem State.placeWord_fpc (s : State) (w : Word) : (s.placeWord w).fpc = s.fpc := rfl
@[simp] theorem State.placeWord_fword (s : State) (w : Word) : (s.placeWord w).fword = s.fword := rfl
@[simp] theorem State.placeWord_faddr (s : State) (w : Word) : (s.placeWord w).faddr = s.faddr := rfl
@[simp] theorem State.placeWord_mem (s : State) (w : Word) : (s.placeWord w).mem = s.mem.writeList s.fetchAddr.toNat [highByte w, lowByte w] := rfl
@[simp] theorem State.placeWord_started (s : State) (w : Word) : (s.placeWord w).started = s.started := rfl
@[simp] theorem State.placeWord_stopped (s : State) (w : Word) : (s.placeWord w).stopped = false := rfl
@[simp] theorem State.placeWord_sched (s : State) (w : Word) : (s.placeWord w).sched = .execute :: s.sched := rfl
@[simp] theorem State.placeWord_rndIn (s : State) (w : Word) : (s.placeWord w).rndIn = s.rndIn := rfl
@[simp] theorem State.placeWord_draws (s : State) (w : Word) : (s.placeWord w).draws = s.draws := rfl

/-! ### `tick` -/

@[simp] theorem State.tick_v (s : State) : (s.tick).v = s.v := by unfold State.tick; split <;> simp_all
@[simp] theorem State.tick_pc (s : State) : (s.tick).pc = s.pc := by unfold State.tick; split <;> simp_all
@[simp] theorem State.tick_depth (s : State) : (s.tick).depth = s.depth := by unfold State.tick; split <;> simp_all
@[simp] theorem State.tick_stack (s : State) : (s.tick).stack = s.stack := by unfold State.tick; split <;> simp_all
@[simp] theorem State.tick_i (s : State) : (s.tick).i = s.i := by unfold State.tick; split <;> simp_all
@[simp] theorem State.tick_dt (s : State) : (s.tick).dt = if s.halt then s.dt else countDown s.dt := by unfold State.tick; split <;> simp_all
@[simp] theorem State.tick_st (s : State) : (s.tick).st = if s.halt then s.st else countDown s.st := by unfold State.tick; split <;> simp_all
@[simp] theorem State.tick_disp (s : State) : (s.tick).disp = s.disp := by unfold State.tick; split <;> simp_all
@[simp] theorem State.tick_keys (s : State) : (s.tick).keys = s.keys := by unfold State.tick; split <;> simp_all
@[simp] theorem State.tick_wait (s : State) : (s.tick).wait = s.wait := by unfold State.tick; split <;> simp_all
@[simp] theorem State.tick_halt (s : State) : (s.tick).halt = s.halt := by unfold State.tick; split <;> simp_all
@[simp] theorem State.tick_fcause (s : State) : (s.tick).fcause = s.fcause := by unfold State.tick; split <;> simp_all
@[simp] theorem State.tick_fpc (s : State) : (s.tick).fpc = s.fpc := by unfold State.tick; split <;> simp_all
@[simp] theorem State.tick_fword (s : State) : (s.tick).fword = s.fword := by unfold State.tick; split <;> simp_all
@[simp] theorem State.tick_faddr (s : State) : (s.tick).faddr = s.faddr := by unfold State.tick; split <;> simp_all
@[simp] theorem State.tick_mem (s : State) : (s.tick).mem = s.mem := by unfold State.tick; split <;> simp_all
@[simp] theorem State.tick_started (s : State) : (s.tick).started = s.started := by unfold State.tick; split <;> simp_all
@[simp] theorem State.tick_stopped (s : State) : (s.tick).stopped = s.stopped := by unfold State.tick; split <;> simp_all
@[simp] theorem State.tick_sched (s : State) : (s.tick).sched = s.sched := by unfold State.tick; split <;> simp_all
@[simp] theorem State.tick_rndIn (s : State) : (s.tick).rndIn = s.rndIn := by unfold State.tick; split <;> simp_all
@[simp] theorem State.tick_draws (s : State) : (s.tick).draws = s.draws := by unfold State.tick; split <;> simp_all

/-! ### `drawn` -/

@[simp] theorem State.drawn_pc (s : State) (x y : Index16) (rows : List Byte) : (s.drawn x y rows).pc = s.pc + 2#16 := rfl
@[simp] theorem State.drawn_depth (s : State) (x y : Index16) (rows : List Byte) : (s.drawn x y rows).depth = s.depth := rfl
@[simp] theorem State.drawn_stack (s : State) (x y : Index16) (rows : List Byte) : (s.drawn x y rows).stack = s.stack := rfl
@[simp] theorem State.drawn_i (s : State) (x y : Index16) (rows : List Byte) : (s.drawn x y rows).i = s.i := rfl
@[simp] theorem State.drawn_dt (s : State) (x y : Index16) (rows : List Byte) : (s.drawn x y rows).dt = s.dt := rfl
@[simp] theorem State.drawn_st (s : State) (x y : Index16) (rows : List Byte) : (s.drawn x y rows).st = s.st := rfl
@[simp] theorem State.drawn_keys (s : State) (x y : Index16) (rows : List Byte) : (s.drawn x y rows).keys = s.keys := rfl
@[simp] theorem State.drawn_wait (s : State) (x y : Index16) (rows : List Byte) : (s.drawn x y rows).wait = s.wait := rfl
@[simp] theorem State.drawn_halt (s : State) (x y : Index16) (rows : List Byte) : (s.drawn x y rows).halt = s.halt := rfl
@[simp] theorem State.drawn_fcause (s : State) (x y : Index16) (rows : List Byte) : (s.drawn x y rows).fcause = s.fcause := rfl
@[simp] theorem State.drawn_fpc (s : State) (x y : Index16) (rows : List Byte) : (s.drawn x y rows).fpc = s.fpc := rfl
@[simp] theorem State.drawn_fword (s : State) (x y : Index16) (rows : List Byte) : (s.drawn x y rows).fword = s.fword := rfl
@[simp] theorem State.drawn_faddr (s : State) (x y : Index16) (rows : List Byte) : (s.drawn x y rows).faddr = s.faddr := rfl
@[simp] theorem State.drawn_mem (s : State) (x y : Index16) (rows : List Byte) : (s.drawn x y rows).mem = s.mem := rfl
@[simp] theorem State.drawn_started (s : State) (x y : Index16) (rows : List Byte) : (s.drawn x y rows).started = s.started := rfl
@[simp] theorem State.drawn_stopped (s : State) (x y : Index16) (rows : List Byte) : (s.drawn x y rows).stopped = s.stopped := rfl
@[simp] theorem State.drawn_sched (s : State) (x y : Index16) (rows : List Byte) : (s.drawn x y rows).sched = s.sched := rfl
@[simp] theorem State.drawn_rndIn (s : State) (x y : Index16) (rows : List Byte) : (s.drawn x y rows).rndIn = s.rndIn := rfl
@[simp] theorem State.drawn_draws (s : State) (x y : Index16) (rows : List Byte) : (s.drawn x y rows).draws = s.draws := rfl

/-! ### Registers and keys read back -/

theorem State.reg_eq (s : State) (x : Index16) : s.reg x = s.v[x] := rfl

@[simp] theorem State.reg_setReg (s : State) (x y : Index16) (b : Byte) :
    (s.setReg x b).reg y = if y = x then b else s.reg y := by
  by_cases h : y = x
  · simp [State.reg, h]
  · have : x.val ≠ y.val := fun e => h (Fin.ext e.symm)
    simp [State.reg, h, this]

@[simp] theorem State.reg_advance (s : State) (x : Index16) : s.advance.reg x = s.reg x := rfl
@[simp] theorem State.reg_jump (s : State) (w : Word) (x : Index16) : (s.jump w).reg x = s.reg x := rfl
@[simp] theorem State.reg_skipIf (s : State) (c : Bool) (x : Index16) : (s.skipIf c).reg x = s.reg x := rfl
@[simp] theorem State.reg_raise (s : State) (c : Cause) (w : Word) (x : Index16) : (s.raise c w).reg x = s.reg x := rfl
@[simp] theorem State.reg_begin (s : State) (x : Index16) : s.begin.reg x = s.reg x := rfl

@[simp] theorem State.reg_finish (s : State) (x y : Index16) (r : Byte) :
    (s.finish x r).reg y = if y = x then r else s.reg y := s.reg_setReg x y r

/-- R140: the flag is written first, so the result is what a destination VF keeps. -/
@[simp] theorem State.reg_finishFlag (s : State) (x y : Index16) (f r : Byte) :
    (s.finishFlag x f r).reg y = if y = x then r else if y = vF then f else s.reg y := by
  simp [State.finishFlag]

@[simp] theorem State.reg_drawn (s : State) (x y r : Index16) (rows : List Byte) :
    (s.drawn x y rows).reg r = if r = vF then
      Byte.ofFlag (Canvas.drawRows ⟨s.disp, false⟩ (s.reg x).toNat (s.reg y).toNat rows).collide else s.reg r := by
  simp [State.drawn]; rfl

@[simp] theorem State.key_keySet (s : State) (k j : Index16) (b : Bool) :
    (s.keySet k b).key j = if j = k then b else s.key j := by
  by_cases h : j = k
  · simp [State.key, h]
  · have : k.val ≠ j.val := fun e => h (Fin.ext e.symm)
    simp [State.key, h, this]

/-! ### What stays the same -/

theorem SameBut.refl (ps : List Part) (s : State) : SameBut ps s s := by
  intro p _
  cases p <;> simp [Part.same]

theorem SameBut.weaken {ps qs : List Part} {s t : State} (h : SameBut ps s t) (hsub : ps ⊆ qs) : SameBut qs s t :=
  fun p hp => h p fun hps => hp (hsub hps)

theorem Part.same_trans {p : Part} {s t u : State} (h : p.same s t) (h' : p.same t u) : p.same s u := by
  cases p <;> simp_all [Part.same]

theorem SameBut.trans {ps : List Part} {s t u : State} (h : SameBut ps s t) (h' : SameBut ps t u) : SameBut ps s u :=
  fun p hp => Part.same_trans (h p hp) (h' p hp)

end Sys2Proof.Machine
end

