-- ==== Sys2Proof/Laws/Display.lean ====
section
/-! SUPPORT. What flipping and clearing cells do to each cell (spec 43_display.md R190, R192). -/

namespace Sys2Proof.Machine

/-- A mask of one bit has that bit alone. -/
theorem Display.bit_mask (c c' : Fin 64) : (1#64 <<< c.val).getLsbD c'.val = decide (c' = c) := by
  rw [show 1#64 <<< c.val = BitVec.twoPow 64 c.val from (BitVec.twoPow_eq 64 c.val).symm, BitVec.getLsbD_twoPow]
  have := c.isLt
  by_cases h : c' = c
  · subst h; simp
  · have : c.val ≠ c'.val := fun e => h (Fin.ext e.symm)
    simp [h, this]

/-- A flip changes its own cell and no other. -/
theorem Display.cell_flip (d : Display) (c c' : Fin 64) (r r' : Fin 32) :
    (d.flip c r).cell c' r' = if c' = c ∧ r' = r then !d.cell c' r' else d.cell c' r' := by
  unfold Display.flip Display.cell
  by_cases hr : r' = r
  · subst hr
    have hrow : (d.set r' (d[r'] ^^^ (1#64 <<< c.val)))[r'] = d[r'] ^^^ (1#64 <<< c.val) := by simp
    rw [hrow, BitVec.getLsbD_xor, Display.bit_mask]
    by_cases hc : c' = c <;> simp [hc]
  · have : r.val ≠ r'.val := fun e => hr (Fin.ext e.symm)
    simp [hr, this]

theorem Display.cell_clear (c : Fin 64) (r : Fin 32) : Display.clear.cell c r = false := by
  simp [Display.clear, Display.cell]

/-- Two displays with the same cells are the same data. -/
theorem Display.ext_cell {d e : Display} (h : ∀ c r, d.cell c r = e.cell c r) : d = e := by
  apply Vector.ext
  intro r hr
  apply BitVec.eq_of_getLsbD_eq
  intro c hc
  exact h ⟨c, hc⟩ ⟨r, hr⟩

/-- One pixel: the cell under a set bit is flipped, and the collision is remembered. -/
theorem Canvas.drawPixel_cell (k : Canvas) (x y : Nat) (bit : Bool) (c : Fin 64) (r : Fin 32) :
    (k.drawPixel x y bit).disp.cell c r =
      if bit ∧ c = Fin.ofNat 64 x ∧ r = Fin.ofNat 32 y then !k.disp.cell c r else k.disp.cell c r := by
  unfold Canvas.drawPixel
  cases bit
  · simp
  · simp [Display.cell_flip]

theorem Canvas.drawPixel_collide (k : Canvas) (x y : Nat) (bit : Bool) :
    (k.drawPixel x y bit).collide =
      (k.collide || (bit && k.disp.cell (Fin.ofNat 64 x) (Fin.ofNat 32 y))) := by
  unfold Canvas.drawPixel
  cases bit <;> simp

end Sys2Proof.Machine
end

