-- ==== Sys2Proof/Laws/Memory.lean ====
section
/-! SUPPORT. What reads and writes of memory do, and that every write keeps the canonical form (spec 20_memory.md R60, R73). -/

namespace Sys2Proof.Machine

@[simp] theorem Memory.read_nil (a : Nat) : Memory.read [] a = Memory.unlisted a := rfl

@[simp] theorem Memory.read_cons (k a : Nat) (b : Byte) (m : Memory) :
    Memory.read ((k, b) :: m) a = if k = a then b else Memory.read m a := rfl

/-- Raising the lower bound's demand only weakens the form. -/
theorem Memory.wfFrom_mono {m : Memory} {lo lo' : Nat} (hle : lo' ≤ lo) (h : Memory.wfFrom lo m = true) :
    Memory.wfFrom lo' m = true := by
  cases m with
  | nil => rfl
  | cons c m =>
    obtain ⟨k, b⟩ := c
    simp [Memory.wfFrom] at h ⊢
    exact ⟨⟨⟨by omega, h.1.1.2⟩, h.1.2⟩, h.2⟩

/-- Below the lower bound nothing is listed. -/
theorem Memory.read_below {m : Memory} {lo a : Nat} (h : Memory.wfFrom lo m = true) (ha : a < lo) :
    m.read a = Memory.unlisted a := by
  induction m generalizing lo with
  | nil => rfl
  | cons c m ih =>
    obtain ⟨k, b⟩ := c
    simp [Memory.wfFrom] at h
    rw [Memory.read_cons, if_neg (by omega)]
    exact ih h.2 (by omega)

theorem Memory.consCell_read (a c : Nat) (b : Byte) {m : Memory} (h : Memory.wfFrom (a + 1) m = true) :
    (Memory.consCell a b m).read c = if c = a then b else m.read c := by
  unfold Memory.consCell
  by_cases hb : b = Memory.unlisted a
  · rw [if_pos hb]
    by_cases hc : c = a
    · rw [if_pos hc, hc, Memory.read_below h (by omega), hb]
    · rw [if_neg hc]
  · rw [if_neg hb, Memory.read_cons]
    by_cases hc : c = a
    · rw [if_pos hc, if_pos hc.symm]
    · rw [if_neg hc, if_neg (fun e => hc e.symm)]

theorem Memory.consCell_wfFrom {a lo : Nat} (b : Byte) {m : Memory} (hlo : lo ≤ a) (ha : a < Config.memSize)
    (h : Memory.wfFrom (a + 1) m = true) : Memory.wfFrom lo (Memory.consCell a b m) = true := by
  unfold Memory.consCell
  by_cases hb : b = Memory.unlisted a
  · rw [if_pos hb]; exact Memory.wfFrom_mono (by omega) h
  · rw [if_neg hb]; simp [Memory.wfFrom, hlo, ha, hb, h]

/-- The one spec lemma of a write, at a lower bound: read after write, and the form kept. -/
theorem Memory.write_spec {m : Memory} {lo a : Nat} (b : Byte) (h : Memory.wfFrom lo m = true) (hlo : lo ≤ a)
    (ha : a < Config.memSize) :
    Memory.wfFrom lo (m.write a b) = true ∧ ∀ c, (m.write a b).read c = if c = a then b else m.read c := by
  induction m generalizing lo with
  | nil =>
    exact ⟨Memory.consCell_wfFrom b hlo ha rfl, fun c => Memory.consCell_read a c b rfl⟩
  | cons cell m ih =>
    obtain ⟨k, v⟩ := cell
    have h' := h
    simp [Memory.wfFrom] at h'
    unfold Memory.write
    by_cases hlt : a < k
    · rw [if_pos hlt]
      have hk : Memory.wfFrom (a + 1) ((k, v) :: m) = true := by
        simp [Memory.wfFrom, h']; omega
      exact ⟨Memory.consCell_wfFrom b hlo ha hk, fun c => Memory.consCell_read a c b hk⟩
    · rw [if_neg hlt]
      by_cases heq : a = k
      · rw [if_pos heq]
        subst heq
        refine ⟨Memory.consCell_wfFrom b hlo ha h'.2, fun c => ?_⟩
        rw [Memory.consCell_read a c b h'.2, Memory.read_cons]
        by_cases hc : c = a
        · rw [if_pos hc, if_pos hc]
        · rw [if_neg hc, if_neg hc, if_neg (fun e => hc e.symm)]
      · rw [if_neg heq]
        obtain ⟨hw, hr⟩ := ih h'.2 (by omega)
        refine ⟨by simp [Memory.wfFrom, h', hw], fun c => ?_⟩
        rw [Memory.read_cons, Memory.read_cons, hr]
        by_cases hkc : k = c
        · rw [if_pos hkc, if_pos hkc, if_neg (by omega)]
        · rw [if_neg hkc, if_neg hkc]

theorem Memory.write_wf {m : Memory} {a : Nat} (b : Byte) (h : m.wf = true) (ha : a < Config.memSize) :
    (m.write a b).wf = true := (Memory.write_spec b h (Nat.zero_le a) ha).1

theorem Memory.read_write {m : Memory} {a : Nat} (b : Byte) (c : Nat) (h : m.wf = true) (ha : a < Config.memSize) :
    (m.write a b).read c = if c = a then b else m.read c := (Memory.write_spec b h (Nat.zero_le a) ha).2 c

/-- Storing a list of bytes keeps the form. -/
theorem Memory.writeList_wf {m : Memory} {a : Nat} {bs : List Byte} (h : m.wf = true)
    (ha : a + bs.length ≤ Config.memSize) : (m.writeList a bs).wf = true := by
  induction bs generalizing m a with
  | nil => exact h
  | cons b bs ih =>
    rw [List.length_cons] at ha
    exact ih (Memory.write_wf b h (by omega)) (by omega)

/-- After a list of bytes is stored, an address of its range reads its byte and every other reads as before. -/
theorem Memory.read_writeList {m : Memory} {a : Nat} {bs : List Byte} (c : Nat) (h : m.wf = true)
    (ha : a + bs.length ≤ Config.memSize) :
    (m.writeList a bs).read c = if a ≤ c then bs.getD (c - a) (m.read c) else m.read c := by
  induction bs generalizing m a with
  | nil => simp [Memory.writeList]
  | cons b bs ih =>
    rw [List.length_cons] at ha
    rw [Memory.writeList, ih (Memory.write_wf b h (by omega)) (by omega), Memory.read_write b c h (by omega)]
    by_cases hlt : c < a
    · rw [if_neg (by omega), if_neg (by omega), if_neg (by omega)]
    · by_cases heq : c = a
      · subst heq; simp
      · rw [if_neg heq, if_pos (by omega), if_pos (by omega)]
        obtain ⟨j, hj⟩ : ∃ j, c - a = j + 1 := ⟨c - a - 1, by omega⟩
        rw [hj, show c - (a + 1) = j by omega, List.getD_cons_succ]

/-- Outside the stored range every address reads as before. -/
theorem Memory.read_writeList_outside {m : Memory} {a : Nat} {bs : List Byte} {c : Nat} (h : m.wf = true)
    (ha : a + bs.length ≤ Config.memSize) (hc : c < a ∨ a + bs.length ≤ c) :
    (m.writeList a bs).read c = m.read c := by
  rw [Memory.read_writeList c h ha]
  split
  · rw [List.getD_eq_default _ _ (by omega)]
  · rfl

theorem Memory.readList_length (m : Memory) (a len : Nat) : (m.readList a len).length = len := by
  simp [Memory.readList]

theorem Memory.readList_getElem (m : Memory) (a len k : Nat) (h : k < (m.readList a len).length) :
    (m.readList a len)[k] = m.read (a + k) := by
  simp [Memory.readList]

theorem State.reset_mem_wf : State.reset.mem.wf = true := rfl

end Sys2Proof.Machine
end

