-- ==== Sys2Proof/Laws/Ops.lean ====
section
/-! SUPPORT. For each shared operation, everything it can do, said once. -/

namespace Sys2Proof.Machine

/-! ### Operands and flags -/

theorem inRange_iff (a len : Nat) : inRange a len = true ↔ a + len ≤ 4096 := by
  exact decide_eq_true_iff

theorem lowestOob_toNat {a : Nat} (h : a < 65536) : (lowestOob a).toNat = max a 4096 := by
  simp [lowestOob, Config.memSize]; omega

theorem zextAddr_toNat (nnn : Addr12) : (zextAddr nnn).toNat = nnn.toNat := by
  have := nnn.isLt
  simp [zextAddr]; omega

theorem zextByte_toNat (b : Byte) : (zextByte b).toNat = b.toNat := by
  have := b.isLt
  simp [zextByte]; omega

theorem glyphAddr_toNat (a : Byte) : (glyphAddr a).toNat = 5 * a.toNat := by
  have := a.isLt
  simp [glyphAddr, Config.glyphBytes]; omega

theorem keyNumber_some {a : Byte} {k : Index16} (h : a.toNat = k.val) : keyNumber a = some k := by
  have := k.isLt
  unfold keyNumber
  rw [dif_pos (by omega)]
  exact congrArg some (Fin.ext h)

theorem keyNumber_none {a : Byte} (h : 16 ≤ a.toNat) : keyNumber a = none := by
  unfold keyNumber
  rw [dif_neg (by omega)]

/-- The sum mod 256 is the addition of bytes. -/
theorem sum8_eq (a b : Byte) : sum8 a b = a + b := by
  apply BitVec.eq_of_toNat_eq
  simp [sum8]

theorem sum8_toNat (a b : Byte) : (sum8 a b).toNat = (a.toNat + b.toNat) % 256 := by
  rw [sum8_eq, BitVec.toNat_add]

/-- The difference mod 256 is the subtraction of bytes. -/
theorem diff8_eq (a b : Byte) : diff8 a b = a - b := by
  apply BitVec.eq_of_toNat_eq
  have ha := a.isLt
  have hb := b.isLt
  rw [diff8, BitVec.toNat_ofInt, BitVec.toNat_sub]
  omega

theorem diff8_toNat (a b : Byte) : ((diff8 a b).toNat : Int) = ((a.toNat : Int) - b.toNat) % 256 := by
  have ha := a.isLt
  have hb := b.isLt
  rw [diff8, BitVec.toNat_ofInt]
  omega

theorem shrFlag_toNat (a : Byte) : (shrFlag a).toNat = a.toNat % 2 := by
  rw [shrFlag, BitVec.toNat_and, show (1#8).toNat = 2 ^ 1 - 1 from rfl, Nat.and_two_pow_sub_one_eq_mod]

theorem shlFlag_toNat (a : Byte) : (shlFlag a).toNat = a.toNat / 128 := by
  have ha := a.isLt
  rw [shlFlag, BitVec.toNat_and, show (1#8).toNat = 2 ^ 1 - 1 from rfl, Nat.and_two_pow_sub_one_eq_mod,
    BitVec.toNat_ushiftRight, Nat.shiftRight_eq_div_pow]
  omega

theorem State.regsTo_length (s : State) (x : Index16) : (s.regsTo x).length = x.val + 1 := by
  have := x.isLt
  simp [State.regsTo]

theorem State.regsTo_getElem (s : State) (x j : Index16) (h : j.val < (s.regsTo x).length) :
    (s.regsTo x)[j.val] = s.reg j := by
  simp [State.regsTo, State.reg]

theorem bcdDigits_length (a : Byte) : (bcdDigits a).length = 3 := rfl

theorem State.reg_loadedRegs (s : State) (x j : Index16) :
    (s.loadedRegs x)[j] = if j ≤ x then s.mem.read (s.i.toNat + j.val) else s.reg j := by
  simp [State.loadedRegs, State.dataAddr, State.reg]

/-! ### The call stack -/

theorem State.sp_eq (s : State) : s.sp = (s.depth.val : Int) - 1 := rfl

theorem State.push_some {s : State} (w : Word) (h : s.depth.val < 16) :
    s.push w = some { s with stack := s.stack.set s.depth.val w h, depth := ⟨s.depth.val + 1, by omega⟩ } := by
  rw [State.push, dif_pos h]

theorem State.push_none {s : State} (w : Word) (h : s.depth.val = 16) : s.push w = none := by
  rw [State.push, dif_neg (by omega)]

theorem State.pop_some {s : State} (h : 0 < s.depth.val) :
    s.pop = some (s.stack[s.depth.val - 1]'(by omega), { s with depth := ⟨s.depth.val - 1, by omega⟩ }) := by
  rw [State.pop, dif_pos h]

theorem State.pop_none {s : State} (h : s.depth.val = 0) : s.pop = none := by
  rw [State.pop, dif_neg (by omega)]

/-! ### The random source -/

theorem State.draw_supplied {s : State} {r : Byte} {rest : List Byte} (h : s.rndIn = r :: rest) :
    s.draw = (r, { s with rndIn := rest }) := by
  rw [State.draw, h]

theorem State.draw_free {s : State} (h : s.rndIn = []) :
    s.draw = (Config.freeRnd s.draws, { s with draws := s.draws + 1 }) := by
  rw [State.draw, h]

/-- A draw touches the random source alone. -/
theorem State.draw_cases (s : State) : s.draw.2 = { s with rndIn := s.rndIn.tail, draws := s.draw.2.draws } := by
  cases h : s.rndIn with
  | nil => rw [State.draw_free h]; simp [h]
  | cons r rest => rw [State.draw_supplied h]; simp

/-! ### Stores through I -/

theorem State.storeAtI_ok {s : State} (w : Word) {bytes : List Byte} (h : s.i.toNat + bytes.length ≤ 4096) :
    s.storeAtI w bytes = { s with pc := s.pc + 2#16, mem := s.mem.writeList s.i.toNat bytes } := by
  rw [State.storeAtI, if_pos ((inRange_iff _ _).2 h)]
  rfl

theorem State.storeAtI_oob {s : State} (w : Word) {bytes : List Byte} (h : 4096 < s.i.toNat + bytes.length) :
    s.storeAtI w bytes = s.raise .dataOob w := by
  rw [State.storeAtI, if_neg (by rw [inRange_iff]; omega)]

/-! ### Fault entry -/

/-- Fault entry writes the record and nothing else (R232, R233). -/
theorem State.raise_sameBut (s : State) (c : Cause) (w : Word) : SameBut [.record] s (s.raise c w) := by
  intro p hp
  cases p <;> simp_all [Part.same, State.reg, State.key]

theorem State.raise_record (s : State) (c : Cause) (w : Word) :
    RecordIs (s.raise c w) c s.pc (faultWord c w) (s.faultAddr c) := by
  simp [RecordIs]

/-! ### The compositor -/

/-- VF's value after a draw is 1 or 0. -/
theorem Byte.ofFlag_eq (b : Bool) : Byte.ofFlag b = if b = true then 0x01#8 else 0x00#8 := rfl

@[simp] theorem Canvas.drawRows_nil (k : Canvas) (x y : Nat) : k.drawRows x y [] = k := rfl

@[simp] theorem Canvas.drawRows_cons (k : Canvas) (x y : Nat) (row : Byte) (rows : List Byte) :
    k.drawRows x y (row :: rows) = (k.drawCols x y row 8).drawRows x (y + 1) rows := rfl

@[simp] theorem Canvas.drawCols_zero (k : Canvas) (x y : Nat) (row : Byte) : k.drawCols x y row 0 = k := rfl

@[simp] theorem Canvas.drawCols_succ (k : Canvas) (x y : Nat) (row : Byte) (cols : Nat) :
    k.drawCols x y row (cols + 1) = (k.drawCols x y row cols).drawPixel (x + cols) y (spriteBit row cols) := rfl

end Sys2Proof.Machine
end

