-- ==== Sys2Proof/Laws/Step.lean ====
section
/-! SUPPORT. What a fetch, the executor's turn and the step of any agent can answer, said once; proofs about runs cite
these and do not unfold the step. -/

namespace Sys2Proof.Machine

theorem State.fetch_some {s : State} {w : Word} (h : s.fetch = some w) :
    s.pc.toNat ≤ 0xFFE ∧ w = wordOfBytes (s.mem.read s.pc.toNat) (s.mem.read (s.pc.toNat + 1)) := by
  unfold State.fetch at h
  split at h
  · cases h
  · rename_i hlt
    simp [Config.memSize] at hlt
    exact ⟨by omega, by simpa using h.symm⟩

theorem State.fetch_none {s : State} (h : s.fetch = none) : 4096 ≤ s.pc.toNat + 1 := by
  unfold State.fetch at h
  split at h
  · rename_i hge; simpa [Config.memSize] using hge
  · cases h

theorem State.fetch_inRange {s : State} (h : s.pc.toNat + 1 < 4096) :
    s.fetch = some (wordOfBytes (s.mem.read s.pc.toNat) (s.mem.read (s.pc.toNat + 1))) := by
  unfold State.fetch
  rw [if_neg (by simp only [Config.memSize]; omega)]

theorem State.fetch_oob {s : State} (h : 4096 ≤ s.pc.toNat + 1) : s.fetch = none := by
  unfold State.fetch
  rw [if_pos (by simpa [Config.memSize] using h)]

/-- A fetch sees PC and the bytes there, and nothing else of the state. -/
theorem State.fetch_congr {s t : State} (hpc : t.pc = s.pc) (hmem : ∀ a, t.mem.read a = s.mem.read a) :
    t.fetch = s.fetch := by
  unfold State.fetch
  rw [hpc, hmem, hmem]

theorem executorEnabled_iff (s : State) :
    s.executorEnabled = true ↔ s.halt = false ∧ s.wait = none ∧ s.stopped = false := by
  unfold State.executorEnabled
  cases s.halt <;> cases s.stopped <;> cases s.wait <;> simp

/-- An instruction's step is a fetch fault, an unknown opcode, or the instruction's effect (R277). -/
theorem runInstruction_cases (s : State) :
    (s.fetch = none ∧ runInstruction s = .next (s.raise .fetchOob 0x0000#16)) ∨
    (∃ w e, s.fetch = some w ∧ decodeWord w = .error e ∧ runInstruction s = .next (s.raise .unknownOpcode w)) ∨
    (∃ w i, s.fetch = some w ∧ decodeWord w = .ok i ∧ runInstruction s = exec i s) := by
  unfold runInstruction
  cases hf : s.fetch with
  | none => exact .inl ⟨rfl, rfl⟩
  | some w =>
    cases hd : decodeWord w with
    | error e => exact .inr (.inl ⟨w, e, rfl, hd, by simp [hd]⟩)
    | ok i => exact .inr (.inr ⟨w, i, rfl, hd, by simp [hd]⟩)

/-- The executor's turn leaves a next state in two ways: it is held and nothing changes, or it runs an instruction. -/
theorem executorTurn_next {s t : State} (h : executorTurn s = .next t) :
    s.halt = false ∧ ((s.wait.isSome = true ∧ t = s) ∨ (s.wait = none ∧ runInstruction s.begin = .next t)) := by
  unfold executorTurn at h
  cases hh : s.halt with
  | true => simp [hh] at h
  | false =>
    cases hw : s.wait with
    | some x => simp [hh, hw] at h; exact ⟨rfl, .inl ⟨rfl, h.symm⟩⟩
    | none => simp [hh, hw] at h; exact ⟨rfl, .inr ⟨rfl, h⟩⟩

/-- The executor's turn of an enabled executor runs an instruction. -/
theorem executorTurn_enabled {s : State} (h : s.executorEnabled = true) :
    executorTurn s = runInstruction s.begin := by
  obtain ⟨hh, hw, -⟩ := (executorEnabled_iff s).1 h
  simp [executorTurn, hh, hw]

theorem moveStep_stopped {s : State} (m : Move) (h : s.stopped = true) : moveStep m s = .refused .runStopped := by
  simp [moveStep, h]

/-- The agents' steps, one by one, in a run that has not been stopped. -/
theorem moveStep_running {s : State} (m : Move) (h : s.stopped = false) :
    moveStep m s =
      match m with
      | .execute => executorTurn s
      | .tick => .next s.tick
      | .keySet k b => .next (s.keySet k b)
      | .keyPress k => .next (s.keyPress k)
      | .render => .next s
      | .reset => .next s.applyReset
      | .load bytes => s.load bytes
      | .stop => .next s.stop := by
  unfold moveStep
  rw [if_neg (by simp [h])]
  cases m <;> rfl

theorem moveStep_next_running {m : Move} {s t : State} (h : moveStep m s = .next t) : s.stopped = false := by
  cases hs : s.stopped with
  | false => rfl
  | true => rw [moveStep_stopped m hs] at h; cases h

/-- Every way a load can leave a next state. -/
theorem load_next {s t : State} {bytes : List Byte} (h : s.load bytes = .next t) :
    bytes.length ≤ 3584 ∧ s.started = false ∧ t = { s with mem := s.mem.writeList 0x200 bytes } := by
  unfold State.load at h
  split at h
  · cases h
  · rename_i hl
    split at h
    · cases h
    · rename_i hst
      cases h
      exact ⟨by simpa [Config.progMax] using hl, by simpa using hst, rfl⟩

/-- A key press completes a wait, or changes nothing. -/
theorem keyPress_cases (s : State) (k : Index16) :
    (∃ x, s.wait = some x ∧ s.halt = false ∧
      s.keyPress k = { s with v := s.v.set x (keyByte k), pc := s.pc + 2#16, wait := none }) ∨
    ((s.wait = none ∨ s.halt = true) ∧ s.keyPress k = s) := by
  unfold State.keyPress
  cases hw : s.wait with
  | none => exact .inr ⟨.inl rfl, rfl⟩
  | some x =>
    by_cases hh : s.halt = true
    · exact .inr ⟨.inr hh, if_pos hh⟩
    · exact .inl ⟨x, rfl, by simpa using hh, if_neg hh⟩

/-- A tick changes the timers alone, and nothing in the halted state. -/
theorem tick_eq (s : State) :
    s.tick = { s with dt := if s.halt then s.dt else countDown s.dt, st := if s.halt then s.st else countDown s.st } := by
  unfold State.tick
  by_cases h : s.halt = true
  · rw [if_pos h, if_pos h, if_pos h]
  · rw [if_neg h, if_neg h, if_neg h]

theorem countDown_toNat (t : Byte) : (countDown t).toNat = t.toNat - 1 := by
  unfold countDown
  split
  · rename_i h; subst h; rfl
  · rename_i h
    have h0 : t.toNat ≠ 0 := fun e => h (BitVec.eq_of_toNat_eq e)
    have := t.isLt
    rw [BitVec.toNat_sub]
    simp; omega

/-- The step by the move it takes. -/
theorem step_eq (s : State) : step s = moveStep s.nextMove s.takeMove := rfl

theorem State.nextMove_nil {s : State} (h : s.sched = []) : s.nextMove = .execute := by
  simp [State.nextMove, h]

theorem State.nextMove_cons {s : State} {m : Move} {rest : List Move} (h : s.sched = m :: rest) : s.nextMove = m := by
  simp [State.nextMove, h]

/-- Taking a move changes the schedule alone, so fetches are as before. -/
@[simp] theorem State.fetch_takeMove (s : State) : s.takeMove.fetch = s.fetch := rfl

@[simp] theorem State.fetch_begin (s : State) : s.begin.fetch = s.fetch := rfl

end Sys2Proof.Machine
end

