-- ==== Sys2Proof/Laws/Exec.lean ====
section
/-! SUPPORT. The branches of the meanings that check something first, each as one equation with its condition. -/

namespace Sys2Proof.Machine

theorem exec_ret_held {s : State} (h : 0 < s.depth.val) :
    exec .ret s = .next { s with pc := s.stack[s.depth.val - 1]'(by omega) + 2#16, depth := ⟨s.depth.val - 1, by omega⟩ } := by
  simp only [exec, execRet, State.pop_some h]
  rfl

theorem exec_ret_empty {s : State} (h : s.depth.val = 0) :
    exec .ret s = .next (s.raise .stackUnderflow 0x00EE#16) := by
  simp only [exec, execRet, State.pop_none h]
  rfl

theorem exec_call_room {s : State} (nnn : Addr12) (h : s.depth.val < 16) :
    exec (.call nnn) s = .next { s with pc := zextAddr nnn, stack := s.stack.set s.depth.val s.pc h, depth := ⟨s.depth.val + 1, by omega⟩ } := by
  simp only [exec, execCall, State.push_some _ h]
  rfl

theorem exec_call_full {s : State} (nnn : Addr12) (h : s.depth.val = 16) :
    exec (.call nnn) s = .next (s.raise .stackOverflow (encodeWord (.call nnn))) := by
  simp only [exec, execCall, State.push_none _ h]

theorem exec_ldBVx_ok {s : State} (x : Index16) (h : s.i.toNat + 2 < 4096) :
    exec (.ldBVx x) s = .next { s with pc := s.pc + 2#16, mem := s.mem.writeList s.i.toNat (bcdDigits (s.reg x)) } := by
  simp only [exec, execLdBVx]
  rw [State.storeAtI_ok _ (by rw [bcdDigits_length]; omega)]

theorem exec_ldBVx_oob {s : State} (x : Index16) (h : 4096 ≤ s.i.toNat + 2) :
    exec (.ldBVx x) s = .next (s.raise .dataOob (encodeWord (.ldBVx x))) := by
  simp only [exec, execLdBVx]
  rw [State.storeAtI_oob _ (by rw [bcdDigits_length]; omega)]

theorem exec_ldMemVx_ok {s : State} (x : Index16) (h : s.i.toNat + x.val < 4096) :
    exec (.ldMemVx x) s = .next { s with pc := s.pc + 2#16, mem := s.mem.writeList s.i.toNat (s.regsTo x) } := by
  simp only [exec, execLdMemVx]
  rw [State.storeAtI_ok _ (by rw [State.regsTo_length]; omega)]

theorem exec_ldMemVx_oob {s : State} (x : Index16) (h : 4096 ≤ s.i.toNat + x.val) :
    exec (.ldMemVx x) s = .next (s.raise .dataOob (encodeWord (.ldMemVx x))) := by
  simp only [exec, execLdMemVx]
  rw [State.storeAtI_oob _ (by rw [State.regsTo_length]; omega)]

theorem exec_ldVxMem_ok {s : State} (x : Index16) (h : s.i.toNat + x.val < 4096) :
    exec (.ldVxMem x) s = .next { s with v := s.loadedRegs x, pc := s.pc + 2#16 } := by
  simp only [exec, execLdVxMem]
  rw [if_pos ((inRange_iff _ _).2 (by omega))]
  rfl

theorem exec_ldVxMem_oob {s : State} (x : Index16) (h : 4096 ≤ s.i.toNat + x.val) :
    exec (.ldVxMem x) s = .next (s.raise .dataOob (encodeWord (.ldVxMem x))) := by
  simp only [exec, execLdVxMem]
  rw [if_neg (by rw [inRange_iff]; omega)]

theorem exec_drw_zero (s : State) (x y : Index16) : exec (.drw x y 0) s = .next (s.setReg vF 0x00#8).advance := rfl

theorem exec_drw_ok {s : State} (x y : Index16) {n : Nat} (hn : 1 ≤ n) (h : s.i.toNat + n ≤ 4096) :
    exec (.drw x y n) s = .next (s.drawn x y (s.mem.readList s.i.toNat n)) := by
  simp only [exec, execDrw]
  rw [if_neg (by omega), if_pos ((inRange_iff _ _).2 h)]

theorem exec_drw_oob {s : State} (x y : Index16) {n : Nat} (hn : 1 ≤ n) (h : 4096 < s.i.toNat + n) :
    exec (.drw x y n) s = .next (s.raise .dataOob (encodeWord (.drw x y n))) := by
  simp only [exec, execDrw]
  rw [if_neg (by omega), if_neg (by rw [inRange_iff]; omega)]

theorem exec_skp_key {s : State} {x k : Index16} (h : (s.reg x).toNat = k.val) :
    exec (.skp x) s = .next (s.skipIf (s.key k)) := by
  simp only [exec, execSkp, keyNumber_some h]

theorem exec_sknp_key {s : State} {x k : Index16} (h : (s.reg x).toNat = k.val) :
    exec (.sknp x) s = .next (s.skipIf (!s.key k)) := by
  simp only [exec, execSknp, keyNumber_some h]

theorem exec_skp_bad {s : State} {x : Index16} (h : 16 ≤ (s.reg x).toNat) :
    exec (.skp x) s = .next (s.raise .keyIndex (encodeWord (.skp x))) := by
  simp only [exec, execSkp, keyNumber_none h]

theorem exec_sknp_bad {s : State} {x : Index16} (h : 16 ≤ (s.reg x).toNat) :
    exec (.sknp x) s = .next (s.raise .keyIndex (encodeWord (.sknp x))) := by
  simp only [exec, execSknp, keyNumber_none h]

/-- A draw changes the random source alone, so RND's state is its input but for V, PC and that source. -/
theorem exec_rnd (s : State) (x : Index16) (kk : Byte) :
    exec (.rnd x kk) s = .next { s with
      v := s.v.set x (s.draw.1 &&& kk), pc := s.pc + 2#16, rndIn := s.rndIn.tail, draws := s.draw.2.draws } := by
  simp only [exec, execRnd]
  rw [State.draw_cases s]
  rfl

end Sys2Proof.Machine
end

