-- ==== Sys2Proof/Laws/PerInstr.lean ====
section
/-! SUPPORT. Facts about each instruction as syntax, one lemma per constructor. -/

/-- The encoded word has the fixed bits of the instruction's row of the opcode map (spec 30_encoding.md R94, R95). -/
def Sys2Proof.Laws.EncodingMatchesRow.Statement (i : Sys2Proof.Instr) : Prop :=
  Sys2Proof.encodeWord i &&& i.rowMask = i.rowMatch

namespace Sys2Proof.Laws.EncodingMatchesRow

open Sys2Proof

theorem cls : Statement (.cls) := rfl
theorem ret : Statement (.ret) := rfl
theorem jp (nnn : Addr12) : Statement (.jp nnn) := (wordNNN_mask 0x1#4 nnn).trans rfl
theorem call (nnn : Addr12) : Statement (.call nnn) := (wordNNN_mask 0x2#4 nnn).trans rfl
theorem seVxKk (x : Index16) (kk : Byte) : Statement (.seVxKk x kk) := (wordXKK_mask 0x3#4 x kk).trans rfl
theorem sneVxKk (x : Index16) (kk : Byte) : Statement (.sneVxKk x kk) := (wordXKK_mask 0x4#4 x kk).trans rfl
theorem seVxVy (x : Index16) (y : Index16) : Statement (.seVxVy x y) := (wordXYN_maskXY 0x5#4 x y 0x0#4).trans rfl
theorem ldVxKk (x : Index16) (kk : Byte) : Statement (.ldVxKk x kk) := (wordXKK_mask 0x6#4 x kk).trans rfl
theorem addVxKk (x : Index16) (kk : Byte) : Statement (.addVxKk x kk) := (wordXKK_mask 0x7#4 x kk).trans rfl
theorem ldVxVy (x : Index16) (y : Index16) : Statement (.ldVxVy x y) := (wordXYN_maskXY 0x8#4 x y 0x0#4).trans rfl
theorem orVxVy (x : Index16) (y : Index16) : Statement (.orVxVy x y) := (wordXYN_maskXY 0x8#4 x y 0x1#4).trans rfl
theorem andVxVy (x : Index16) (y : Index16) : Statement (.andVxVy x y) := (wordXYN_maskXY 0x8#4 x y 0x2#4).trans rfl
theorem xorVxVy (x : Index16) (y : Index16) : Statement (.xorVxVy x y) := (wordXYN_maskXY 0x8#4 x y 0x3#4).trans rfl
theorem addVxVy (x : Index16) (y : Index16) : Statement (.addVxVy x y) := (wordXYN_maskXY 0x8#4 x y 0x4#4).trans rfl
theorem subVxVy (x : Index16) (y : Index16) : Statement (.subVxVy x y) := (wordXYN_maskXY 0x8#4 x y 0x5#4).trans rfl
theorem shrVx (x : Index16) (y : Index16) : Statement (.shrVx x y) := (wordXYN_maskXY 0x8#4 x y 0x6#4).trans rfl
theorem subnVxVy (x : Index16) (y : Index16) : Statement (.subnVxVy x y) := (wordXYN_maskXY 0x8#4 x y 0x7#4).trans rfl
theorem shlVx (x : Index16) (y : Index16) : Statement (.shlVx x y) := (wordXYN_maskXY 0x8#4 x y 0xE#4).trans rfl
theorem sneVxVy (x : Index16) (y : Index16) : Statement (.sneVxVy x y) := (wordXYN_maskXY 0x9#4 x y 0x0#4).trans rfl
theorem ldI (nnn : Addr12) : Statement (.ldI nnn) := (wordNNN_mask 0xA#4 nnn).trans rfl
theorem jpV0 (nnn : Addr12) : Statement (.jpV0 nnn) := (wordNNN_mask 0xB#4 nnn).trans rfl
theorem rnd (x : Index16) (kk : Byte) : Statement (.rnd x kk) := (wordXKK_mask 0xC#4 x kk).trans rfl
theorem drw (x : Index16) (y : Index16) (n : Nat) : Statement (.drw x y n) := (wordXYN_mask 0xD#4 x y (BitVec.ofNat 4 n)).trans rfl
theorem skp (x : Index16) : Statement (.skp x) := (wordXKK_maskX 0xE#4 x 0x9E#8).trans rfl
theorem sknp (x : Index16) : Statement (.sknp x) := (wordXKK_maskX 0xE#4 x 0xA1#8).trans rfl
theorem ldVxDt (x : Index16) : Statement (.ldVxDt x) := (wordXKK_maskX 0xF#4 x 0x07#8).trans rfl
theorem ldVxK (x : Index16) : Statement (.ldVxK x) := (wordXKK_maskX 0xF#4 x 0x0A#8).trans rfl
theorem ldDtVx (x : Index16) : Statement (.ldDtVx x) := (wordXKK_maskX 0xF#4 x 0x15#8).trans rfl
theorem ldStVx (x : Index16) : Statement (.ldStVx x) := (wordXKK_maskX 0xF#4 x 0x18#8).trans rfl
theorem addIVx (x : Index16) : Statement (.addIVx x) := (wordXKK_maskX 0xF#4 x 0x1E#8).trans rfl
theorem ldFVx (x : Index16) : Statement (.ldFVx x) := (wordXKK_maskX 0xF#4 x 0x29#8).trans rfl
theorem ldBVx (x : Index16) : Statement (.ldBVx x) := (wordXKK_maskX 0xF#4 x 0x33#8).trans rfl
theorem ldMemVx (x : Index16) : Statement (.ldMemVx x) := (wordXKK_maskX 0xF#4 x 0x55#8).trans rfl
theorem ldVxMem (x : Index16) : Statement (.ldVxMem x) := (wordXKK_maskX 0xF#4 x 0x65#8).trans rfl

end Sys2Proof.Laws.EncodingMatchesRow
end

