-- ==== Sys2Proof/Tests/Slice0.lean ====
section
/-! SUPPORT. The model's own tests: the well-formedness smoke, words written out from R94's formats, one step at a time
against the vectors of spec 95_test_vectors.md (whose ids the comments give), and for each obligation with hypotheses a
state that meets them. -/

namespace Sys2Proof.Tests

open Sys2Proof Sys2Proof.Machine

/-! ## Well-formedness and the decoder -/

theorem test_wf_refuses_sixteen_rows : (Instr.drw 0 0 16).wf = false := by decide

theorem test_wf_admits_fifteen_rows : (Instr.drw 15 15 15).wf = true := by decide

theorem test_decode_control :
    decodeWord 0b0000_0000_1110_1110#16 = .ok .ret ∧
    decodeWord 0b0001_0010_0011_0100#16 = .ok (.jp 0x234#12) ∧
    decodeWord 0b0010_1111_1110_0001#16 = .ok (.call 0xFE1#12) ∧
    decodeWord 0b0011_0101_0001_0010#16 = .ok (.seVxKk 5 0x12#8) ∧
    decodeWord 0b0100_1010_1000_0001#16 = .ok (.sneVxKk 10 0x81#8) ∧
    decodeWord 0b0101_0001_0010_0000#16 = .ok (.seVxVy 1 2) ∧
    decodeWord 0b1001_1100_0011_0000#16 = .ok (.sneVxVy 12 3) ∧
    decodeWord 0b1011_0011_0000_0101#16 = .ok (.jpV0 0x305#12) := by decide

theorem test_decode_alu :
    decodeWord 0b0110_1010_1111_0000#16 = .ok (.ldVxKk 10 0xF0#8) ∧
    decodeWord 0b0111_0110_0000_0011#16 = .ok (.addVxKk 6 0x03#8) ∧
    decodeWord 0b1000_0001_0010_0000#16 = .ok (.ldVxVy 1 2) ∧
    decodeWord 0b1000_0011_0100_0001#16 = .ok (.orVxVy 3 4) ∧
    decodeWord 0b1000_0101_0110_0010#16 = .ok (.andVxVy 5 6) ∧
    decodeWord 0b1000_0111_1000_0011#16 = .ok (.xorVxVy 7 8) ∧
    decodeWord 0b1000_1001_1010_0100#16 = .ok (.addVxVy 9 10) ∧
    decodeWord 0b1000_1011_1100_0101#16 = .ok (.subVxVy 11 12) ∧
    decodeWord 0b1000_1101_1110_0110#16 = .ok (.shrVx 13 14) ∧
    decodeWord 0b1000_1111_0000_0111#16 = .ok (.subnVxVy 15 0) ∧
    decodeWord 0b1000_0010_0001_1110#16 = .ok (.shlVx 2 1) ∧
    decodeWord 0b1100_0011_0000_1111#16 = .ok (.rnd 3 0x0F#8) := by decide

theorem test_decode_index_and_display :
    decodeWord 0b1010_0001_0010_0011#16 = .ok (.ldI 0x123#12) ∧
    decodeWord 0b1111_0001_0001_1110#16 = .ok (.addIVx 1) ∧
    decodeWord 0b1111_0010_0010_1001#16 = .ok (.ldFVx 2) ∧
    decodeWord 0b1111_0011_0011_0011#16 = .ok (.ldBVx 3) ∧
    decodeWord 0b1111_0100_0101_0101#16 = .ok (.ldMemVx 4) ∧
    decodeWord 0b1111_0101_0110_0101#16 = .ok (.ldVxMem 5) ∧
    decodeWord 0b0000_0000_1110_0000#16 = .ok .cls ∧
    decodeWord 0b1101_0011_0100_1111#16 = .ok (.drw 3 4 15) := by decide

theorem test_decode_keypad_and_timers :
    decodeWord 0b1110_0101_1001_1110#16 = .ok (.skp 5) ∧
    decodeWord 0b1110_0110_1010_0001#16 = .ok (.sknp 6) ∧
    decodeWord 0b1111_0011_0000_0111#16 = .ok (.ldVxDt 3) ∧
    decodeWord 0b1111_0101_0000_1010#16 = .ok (.ldVxK 5) ∧
    decodeWord 0b1111_0111_0001_0101#16 = .ok (.ldDtVx 7) ∧
    decodeWord 0b1111_1000_0001_1000#16 = .ok (.ldStVx 8) := by decide

/-- F1, F2, C15, C18, A28 and A29: words of no row. -/
theorem test_decode_unknown :
    decodeWord 0x0000#16 = .error (.unknownOpcode 0x0000#16) ∧ decodeWord 0x0123#16 = .error (.unknownOpcode 0x0123#16) ∧
    decodeWord 0x5121#16 = .error (.unknownOpcode 0x5121#16) ∧ decodeWord 0x800F#16 = .error (.unknownOpcode 0x800F#16) ∧
    decodeWord 0x8128#16 = .error (.unknownOpcode 0x8128#16) ∧ decodeWord 0x912F#16 = .error (.unknownOpcode 0x912F#16) ∧
    decodeWord 0xE09F#16 = .error (.unknownOpcode 0xE09F#16) ∧ decodeWord 0xF0FF#16 = .error (.unknownOpcode 0xF0FF#16) ∧
    decodeWord 0xF01F#16 = .error (.unknownOpcode 0xF01F#16) := by decide

/-- R64, R65: the byte at the lower address is the high one, and one byte is no instruction. -/
theorem test_decode_bytes :
    decodeBytes [0x12#8, 0x34#8, 0x56#8] = .ok (.jp 0x234#12, [0x56#8]) ∧ decodeBytes [0x12#8] = .error .truncated := by
  decide

theorem test_decode_table_word :
    decodeTableWord 16 0x8124 = some (.addVxVy 1 2) ∧ decodeTableWord 16 0x0000 = none := by decide

/-! ## One step on the vectors -/

/-- The state after the word, placed at PC, has been run by one step of the machine. -/
def after (w : Nat) (s : State) : Option State := nextState? (step (s.withFetchWord 16 w))

/-- The step answered a state that passes the check. -/
def passes (o : Option State) (check : State → Bool) : Bool :=
  match o with
  | some t => check t
  | none => false

/-- Reset with two registers set. -/
def with2 (x : Index16) (a : Byte) (y : Index16) (b : Byte) : State := (State.reset.setReg x a).setReg y b

/-- The state with I set. -/
def withI (s : State) (i : Word) : State := { s with i := i }

/-- The state with bytes stored from an address up. -/
def withBytes (s : State) (a : Nat) (bytes : List Byte) : State := { s with mem := s.mem.writeList a bytes }

/-- Reset with n stack entries held, all 0x0200. -/
def withDepth (n : Fin 17) : State := { State.reset with depth := n, stack := Vector.replicate 16 0x0200#16 }

/-- The record a fault at 0x0200 leaves. -/
def faulted (c : Cause) (word addr : Word) (t : State) : Bool :=
  t.halt && t.fcause == c && t.fpc == 0x0200#16 && t.fword == word && t.faddr == addr && t.pc == 0x0200#16

/-- D1. -/
theorem test_cls :
    passes (after 0x00E0 { State.reset with disp := (State.reset.disp.flip 0 0).flip 63 31 }) (fun t =>
      t.disp == State.reset.disp && t.pc == 0x0202#16) = true := by decide

/-- C1. -/
theorem test_ret :
    passes (after 0x00EE { withDepth 1 with pc := 0x0216#16, stack := (withDepth 1).stack.set 0 0x0208#16 }) (fun t =>
      t.pc == 0x020A#16 && t.sp == -1) = true := by decide

/-- C2. -/
theorem test_ret_underflow :
    passes (after 0x00EE State.reset) (fun t => faulted .stackUnderflow 0x00EE#16 0x0000#16 t && t.sp == -1) = true := by
  decide

/-- C4. -/
theorem test_jp : passes (after 0x1234 State.reset) (fun t => t.pc == 0x0234#16) = true := by decide

/-- C6. -/
theorem test_call :
    passes (after 0x2300 State.reset) (fun t => t.pc == 0x0300#16 && t.sp == 0 && t.stack[0] == 0x0200#16) = true := by
  decide

/-- C7. -/
theorem test_call_overflow :
    passes (after 0x2300 (withDepth 16)) (fun t => faulted .stackOverflow 0x2300#16 0x0000#16 t && t.sp == 15) = true := by
  decide

/-- C9, C10. -/
theorem test_se_immediate :
    passes (after 0x3512 (with2 5 0x12#8 5 0x12#8)) (fun t => t.pc == 0x0204#16) = true ∧
    passes (after 0x3512 (with2 5 0x13#8 5 0x13#8)) (fun t => t.pc == 0x0202#16) = true := by decide

/-- C11, C12. -/
theorem test_sne_immediate :
    passes (after 0x4512 (with2 5 0x12#8 5 0x12#8)) (fun t => t.pc == 0x0202#16) = true ∧
    passes (after 0x4512 (with2 5 0x13#8 5 0x13#8)) (fun t => t.pc == 0x0204#16) = true := by decide

/-- C13, C14. -/
theorem test_se_registers :
    passes (after 0x5120 (with2 1 0x07#8 2 0x07#8)) (fun t => t.pc == 0x0204#16) = true ∧
    passes (after 0x5120 (with2 1 0x07#8 2 0x08#8)) (fun t => t.pc == 0x0202#16) = true := by decide

/-- C16, C17. -/
theorem test_sne_registers :
    passes (after 0x9120 (with2 1 0x07#8 2 0x07#8)) (fun t => t.pc == 0x0202#16) = true ∧
    passes (after 0x9120 (with2 1 0x07#8 2 0x08#8)) (fun t => t.pc == 0x0204#16) = true := by decide

/-- C21: the largest PC any rule gives. -/
theorem test_jpV0 : passes (after 0xBFFF (with2 0 0xFF#8 1 0x00#8)) (fun t => t.pc == 0x10FE#16) = true := by decide

/-- A1. -/
theorem test_ld_immediate : passes (after 0x6AFF State.reset) (fun t => t.reg 10 == 0xFF#8) = true := by decide

/-- A2, A3. -/
theorem test_add_immediate :
    passes (after 0x7AFF (with2 10 0x02#8 1 0x00#8)) (fun t => t.reg 10 == 0x01#8 && t.reg vF == 0x00#8) = true ∧
    passes (after 0x7F01 (with2 15 0xFF#8 1 0x00#8)) (fun t => t.reg vF == 0x00#8) = true := by decide

/-- A4. -/
theorem test_ld_register :
    passes (after 0x8120 (with2 1 0x01#8 2 0x55#8)) (fun t => t.reg 1 == 0x55#8) = true := by decide

/-- A5. -/
theorem test_or :
    passes (after 0x8121 ((with2 1 0xF0#8 2 0x0F#8).setReg vF 0x77#8)) (fun t =>
      t.reg 1 == 0xFF#8 && t.reg vF == 0x77#8) = true := by decide

/-- A6. -/
theorem test_and : passes (after 0x8122 (with2 1 0xF0#8 2 0x3C#8)) (fun t => t.reg 1 == 0x30#8) = true := by decide

/-- A7. -/
theorem test_xor : passes (after 0x8123 (with2 1 0xFF#8 2 0x0F#8)) (fun t => t.reg 1 == 0xF0#8) = true := by decide

/-- A8, A9. -/
theorem test_add :
    passes (after 0x8124 (with2 1 0xFF#8 2 0x01#8)) (fun t => t.reg 1 == 0x00#8 && t.reg vF == 0x01#8) = true ∧
    passes (after 0x8124 (with2 1 0x7F#8 2 0x80#8)) (fun t => t.reg 1 == 0xFF#8 && t.reg vF == 0x00#8) = true := by decide

/-- A11, A12: VF as a destination, and as a source. -/
theorem test_add_with_vf :
    passes (after 0x8F14 (with2 15 0xFF#8 1 0x01#8)) (fun t => t.reg vF == 0x00#8) = true ∧
    passes (after 0x81F4 (with2 1 0x10#8 15 0xF0#8)) (fun t => t.reg 1 == 0x00#8 && t.reg vF == 0x01#8) = true := by decide

/-- A13, A15. -/
theorem test_sub :
    passes (after 0x8125 (with2 1 0x05#8 2 0x05#8)) (fun t => t.reg 1 == 0x00#8 && t.reg vF == 0x01#8) = true ∧
    passes (after 0x8125 (with2 1 0x00#8 2 0xFF#8)) (fun t => t.reg 1 == 0x01#8 && t.reg vF == 0x00#8) = true := by decide

/-- A16. -/
theorem test_sub_into_vf :
    passes (after 0x8F15 (with2 15 0x10#8 1 0x01#8)) (fun t => t.reg vF == 0x0F#8) = true := by decide

/-- A19, A20. -/
theorem test_shr :
    passes (after 0x8126 (with2 1 0x03#8 2 0xFF#8)) (fun t => t.reg 1 == 0x01#8 && t.reg vF == 0x01#8) = true ∧
    passes (after 0x8F06 (with2 15 0x02#8 1 0x00#8)) (fun t => t.reg vF == 0x01#8) = true := by decide

/-- A21, A22. -/
theorem test_subn :
    passes (after 0x8127 (with2 1 0x05#8 2 0x05#8)) (fun t => t.reg 1 == 0x00#8 && t.reg vF == 0x00#8) = true ∧
    passes (after 0x8127 (with2 1 0x05#8 2 0x06#8)) (fun t => t.reg 1 == 0x01#8 && t.reg vF == 0x01#8) = true := by decide

/-- A25, A27. -/
theorem test_shl :
    passes (after 0x810E (with2 1 0x81#8 2 0x00#8)) (fun t => t.reg 1 == 0x02#8 && t.reg vF == 0x01#8) = true ∧
    passes (after 0x8F0E (with2 15 0x80#8 1 0x00#8)) (fun t => t.reg vF == 0x00#8) = true := by decide

/-- A30. -/
theorem test_rnd :
    passes (after 0xC30F { State.reset with rndIn := [0xA7#8] }) (fun t => t.reg 3 == 0x07#8) = true := by decide


/-- M1. -/
theorem test_ldI : passes (after 0xA123 State.reset) (fun t => t.i == 0x0123#16) = true := by decide

/-- M3, M4. -/
theorem test_addI :
    passes (after 0xF11E (withI (with2 1 0x01#8 2 0x00#8) 0x0FFF#16)) (fun t =>
      t.i == 0x1000#16 && t.reg vF == 0x00#8 && !t.halt) = true ∧
    passes (after 0xF11E (withI (with2 1 0x02#8 2 0x00#8) 0xFFFF#16)) (fun t => t.i == 0x0001#16) = true := by decide

/-- M5, M8. -/
theorem test_ldF :
    passes (after 0xF129 (with2 1 0x05#8 2 0x00#8)) (fun t => t.i == 0x0019#16) = true ∧
    passes (after 0xF129 (with2 1 0xFF#8 2 0x00#8)) (fun t => t.i == 0x04FB#16) = true := by decide

/-- M9. -/
theorem test_ldB :
    passes (after 0xF133 (withI (with2 1 0x9C#8 2 0x00#8) 0x0300#16)) (fun t =>
      t.mem.readList 0x300 3 == [0x01#8, 0x05#8, 0x06#8]) = true := by decide

/-- M13. -/
theorem test_ldB_oob :
    passes (after 0xF133 (withI (with2 1 0x07#8 2 0x00#8) 0x0FFE#16)) (faulted .dataOob 0xF133#16 0x1000#16) = true := by
  decide

/-- M14. -/
theorem test_ldMem :
    passes (after 0xF155 (withI (with2 0 0x12#8 1 0x34#8) 0x0400#16)) (fun t =>
      t.mem.readList 0x400 3 == [0x12#8, 0x34#8, 0x00#8] && t.i == 0x0400#16) = true := by decide

/-- M17. -/
theorem test_ldMem_oob :
    passes (after 0xFF55 (withI State.reset 0x0FF1#16)) (faulted .dataOob 0xFF55#16 0x1000#16) = true := by decide

/-- M21. -/
theorem test_ldVxMem :
    passes (after 0xFF65 (withI (withBytes State.reset 0xFFF [0x77#8]) 0x0FF0#16)) (fun t =>
      t.reg 14 == 0x00#8 && t.reg vF == 0x77#8) = true := by decide

/-- M23. -/
theorem test_ldVxMem_oob :
    passes (after 0xF165 (withI State.reset 0xFFFF#16)) (faulted .dataOob 0xF165#16 0xFFFF#16) = true := by decide

/-- D4: each pixel wraps on its own. -/
theorem test_drw_wraps :
    passes (after 0xD011 (withI (withBytes (with2 0 0x3C#8 1 0x1F#8) 0x300 [0xFF#8]) 0x0300#16)) (fun t =>
      t.disp == State.reset.disp.set 31 0xF00000000000000F#64 && t.reg vF == 0x00#8) = true := by decide

/-- D3's first cell: a cell that was 1 becomes 0 and collides. -/
theorem test_drw_collides :
    passes (after 0xD011 { State.reset with disp := State.reset.disp.flip 0 0 }) (fun t =>
      t.disp == State.reset.disp.set 0 0b1110#64 && t.reg vF == 0x01#8) = true := by decide

/-- K1, K5. -/
theorem test_skp :
    passes (after 0xE59E ((with2 5 0x0A#8 1 0x00#8).keySet 10 true)) (fun t => t.pc == 0x0204#16) = true ∧
    passes (after 0xE59E (with2 5 0x10#8 1 0x00#8)) (faulted .keyIndex 0xE59E#16 0x0000#16) = true := by decide

/-- K4, K6. -/
theorem test_sknp :
    passes (after 0xE5A1 ((with2 5 0x0A#8 1 0x00#8).keySet 10 true)) (fun t => t.pc == 0x0202#16) = true ∧
    passes (after 0xE5A1 (with2 5 0xFF#8 1 0x00#8)) (faulted .keyIndex 0xE5A1#16 0x0000#16) = true := by decide

/-- K7. -/
theorem test_ldVxDt :
    passes (after 0xF307 { State.reset with dt := 0x3C#8 }) (fun t => t.reg 3 == 0x3C#8) = true := by decide

/-- K9. -/
theorem test_ldDtVx :
    passes (after 0xF315 (with2 3 0x3C#8 1 0x00#8)) (fun t => t.dt == 0x3C#8 && t.st == 0x00#8) = true := by decide

/-- K10. -/
theorem test_ldStVx :
    passes (after 0xF318 (with2 3 0x10#8 1 0x00#8)) (fun t => t.st == 0x10#8 && t.dt == 0x00#8) = true := by decide

/-- K11. -/
theorem test_ldVxK :
    passes (after 0xF50A { State.reset with pc := 0x0220#16 }) (fun t =>
      t.wait == some 5 && t.pc == 0x0220#16 && t.reg 5 == 0x00#8) = true := by decide

/-- F1 on empty memory, F4 and F5. -/
theorem test_fetch_faults :
    passes (nextState? (step State.reset)) (faulted .unknownOpcode 0x0000#16 0x0000#16) = true ∧
    passes (nextState? (step { State.reset with pc := 0x0FFF#16 })) (fun t =>
      t.halt && t.fcause == .fetchOob && t.fpc == 0x0FFF#16 && t.fword == 0x0000#16 && t.faddr == 0x1000#16) = true ∧
    passes (nextState? (step { State.reset with pc := 0x10FE#16 })) (fun t =>
      t.fcause == .fetchOob && t.faddr == 0x10FE#16) = true := by decide

/-! ## The other agents -/

/-- A state waiting in register x, as F50A at 0x0220 leaves it. -/
def waiting (x : Index16) : State := { State.reset with pc := 0x0220#16, wait := some x, started := true }

/-- A state halted by an unknown word at 0x0200. -/
def halted : State := { State.reset.raise .unknownOpcode 0x0000#16 with started := true }

/-- The state once an agent has moved. -/
def moved (m : Move) (s : State) : Option State := nextState? (moveStep m s)

/-- T1, T4, T5. -/
theorem test_tick :
    passes (moved .tick { State.reset with dt := 0x02#8, st := 0x01#8 }) (fun t => t.dt == 0x01#8 && t.st == 0x00#8) = true ∧
    passes (moved .tick { halted with dt := 0x05#8 }) (fun t => t.dt == 0x05#8) = true ∧
    passes (moved .tick { waiting 5 with dt := 0x03#8 }) (fun t => t.dt == 0x02#8) = true := by decide

/-- T7, T8, T10. -/
theorem test_key_press :
    passes (moved (.keyPress 11) (waiting 5)) (fun t =>
      t.reg 5 == 0x0B#8 && t.pc == 0x0222#16 && t.wait == none) = true ∧
    passes (moved (.keyPress 3) State.reset) (fun t => t == State.reset) = true ∧
    passes (moved (.keyPress 7) (waiting 15)) (fun t => t.reg vF == 0x07#8) = true := by decide

/-- T9. -/
theorem test_key_set :
    passes (moved (.keySet 2 true) (waiting 5)) (fun t => t.key 2 && !t.key 3 && t.wait == some 5) = true := by decide

/-- L3's load, L5's reset. -/
theorem test_load_and_reset :
    passes (moved (.load []) State.reset) (fun t => t == State.reset) = true ∧
    passes (moved .reset halted) (fun t => t == State.reset) = true := by decide

/-- R238: the schedule says who moves, its head first. -/
theorem test_schedule :
    passes (nextState? (step { State.reset with dt := 0x02#8, sched := [.tick, .execute] })) (fun t =>
      t.dt == 0x01#8 && t.sched == [.execute] && !t.started) = true := by decide

/-! ## States that meet the obligations' hypotheses, each clause at a boundary -/

theorem witness_ResetMoveRestoresEveryCorePart : halted.stopped = false ∧ halted.halt = true := by decide

theorem witness_LoadCopiesTheProgramOrIsRefused :
    State.reset.stopped = false ∧ State.reset.mem.wf = true ∧ State.reset.started = false ∧
    3584 < (List.replicate 3585 0x00#8).length ∧ (List.replicate 3584 0x00#8).length ≤ 3584 ∧
    (waiting 0).stopped = false ∧ (waiting 0).mem.wf = true ∧ (waiting 0).started = true := by
  simp only [List.length_replicate]; decide

theorem witness_StopLeavesTheStateAndEndsTheRun : (waiting 5).stopped = false := rfl

/-- One entry held, sixteen, none. -/
theorem witness_RetReturnsPastTheCall :
    (withDepth 1).sp = ((0 : Index16).val : Int) ∧ (withDepth 16).sp = ((15 : Index16).val : Int) ∧
    (withDepth 0).sp = -1 := by decide

/-- No entry held, fifteen, sixteen. -/
theorem witness_CallPushesItsOwnAddress :
    (withDepth 0).sp < 15 ∧ (withDepth 15).sp < 15 ∧ (withDepth 16).sp = 15 := by decide

theorem witness_CallThenRetRestoresPc : (withDepth 0).sp < 15 ∧ (withDepth 15).sp < 15 := by decide

theorem witness_AddSubShiftFlags : (14 : Index16) ≠ vF ∧ (0 : Index16) ≠ vF := by decide

theorem witness_RndTakesTheSuppliedByte : ({ State.reset with rndIn := [0xA7#8] } : State).rndIn = 0xA7#8 :: [] := rfl

/-- The last range inside memory, the first that leaves it, and one that starts outside. -/
theorem witness_LdBVxStoresThreeDigits :
    State.reset.mem.wf = true ∧ (withI State.reset 0x0FFD#16).i.toNat + 2 < 4096 ∧
    4096 ≤ (withI State.reset 0x0FFE#16).i.toNat + 2 ∧ 4096 ≤ (withI State.reset 0xFFFF#16).i.toNat + 2 := by decide

theorem witness_LdMemVxStoresTheRegisters :
    (withBytes State.reset 0xFFF [0x77#8]).mem.wf = true ∧
    (withI State.reset 0x0FFF#16).i.toNat + (0 : Index16).val < 4096 ∧
    (withI State.reset 0x0FF0#16).i.toNat + (15 : Index16).val < 4096 ∧
    4096 ≤ (withI State.reset 0x0FFF#16).i.toNat + (1 : Index16).val ∧
    4096 ≤ (withI State.reset 0x1000#16).i.toNat + (0 : Index16).val := by decide

theorem witness_LdVxMemLoadsTheRegisters :
    (withI State.reset 0x0FFF#16).i.toNat + (0 : Index16).val < 4096 ∧
    4096 ≤ (withI State.reset 0x0FF1#16).i.toNat + (15 : Index16).val := by decide

/-- The store at 0x0200 is of the very next word, and the one at 0x0FFC of the last word of memory. -/
theorem witness_StoreIsSeenByTheNextFetch :
    State.reset.mem.wf = true ∧ ({ State.reset with pc := 0x0FFC#16 } : State).pc.toNat + 3 < 4096 ∧
    (withI State.reset 0x0202#16).i.toNat + (1 : Index16).val < 4096 ∧
    (withI State.reset 0x0FFD#16).i.toNat + 2 < 4096 := by decide

/-- n = 0, n = 1 at the last byte, n = 15 at the last place it fits, and n = 2 one past. -/
theorem witness_DrwFlipsTheCellsUnderTheSprite :
    1 ≤ 1 ∧ 1 < 16 ∧ (withI State.reset 0x0FFF#16).i.toNat + 1 - 1 < 4096 ∧
    15 < 16 ∧ (withI State.reset 0x0FF1#16).i.toNat + 15 - 1 < 4096 ∧
    4096 ≤ (withI State.reset 0x0FFF#16).i.toNat + 2 - 1 := by decide

/-- Glyph 0 at (0, 0): its bit 7 falls on the cell (0, 0), set or clear beforehand. -/
theorem witness_SpriteSets :
    SpriteSets State.reset 0 0 5 0 0 ∧ State.reset.disp.cell 0 0 = false ∧
    SpriteSets { State.reset with disp := State.reset.disp.flip 0 0 } 0 0 5 0 0 ∧
    (State.reset.disp.flip 0 0).cell 0 0 = true :=
  ⟨⟨0, 0, by decide⟩, by decide, ⟨0, 0, by decide⟩, by decide⟩

/-- A sprite of no row sets no cell. -/
theorem witness_not_SpriteSets : ¬SpriteSets State.reset 0 0 0 0 0 := fun ⟨_, r', _, h, _⟩ => Nat.not_lt_zero r' h

theorem witness_DrawingTwiceRestoresTheDisplay :
    (0 : Index16) ≠ vF ∧ (14 : Index16) ≠ vF ∧ 15 < 16 ∧ (withI State.reset 0x0FF1#16).i.toNat + 15 ≤ 4096 := by decide

/-- V5 = 0x0F is the last key number, 0x10 the first value that is none. -/
theorem witness_SkipsOnAKey :
    ((with2 5 0x0F#8 1 0x00#8).reg 5).toNat = (15 : Index16).val ∧ 16 ≤ ((with2 5 0x10#8 1 0x00#8).reg 5).toNat := by decide

theorem witness_KeyPressCompletesTheWait :
    (waiting 15).stopped = false ∧ (waiting 15).wait = some 15 ∧ (waiting 15).halt = false ∧
    State.reset.wait = none ∧ halted.halt = true ∧ halted.stopped = false := by decide

theorem witness_TickCountsDownToZero :
    State.reset.stopped = false ∧ State.reset.halt = false ∧ halted.stopped = false ∧ halted.halt = true := by decide

theorem witness_KeySetWritesOneFlag : halted.stopped = false := rfl

/-- A core that waits for a key with DT = 1 while the timer driver ticks for ever. -/
def waitingRun (n : Nat) : State := { waiting 5 with dt := if n = 0 then 0x01#8 else 0x00#8 }

theorem witness_DelayTimerReachesZeroUnderFairness :
    IsRun (fun _ => .tick) waitingRun ∧ Fair (fun _ => .tick) waitingRun ∧ (∀ n, (waitingRun n).halt = false) ∧
    (∀ n, (waitingRun (n + 1)).dt.toNat ≤ (waitingRun n).dt.toNat) ∧ (waitingRun 0).dt ≠ 0x00#8 := by
  refine ⟨fun n => ?_, ⟨fun n => ⟨n, Nat.le_refl n, rfl⟩, fun h => ?_⟩, fun _ => rfl, fun n => ?_, by decide⟩
  · cases n <;> rfl
  · obtain ⟨_, _, h⟩ := h 0
    exact absurd h (by simp [State.executorEnabled, waitingRun, waiting])
  · simp [waitingRun]

/-- At the program base, and with the last word of memory. -/
theorem witness_StepRunsTheDecodedInstruction :
    (∀ s ∈ [withBytes State.reset 0x200 [0x60#8, 0x05#8],
        { withBytes State.reset 0xFFE [0x60#8, 0x05#8] with pc := 0x0FFE#16 }],
      s.nextMove = .execute ∧ s.executorEnabled = true ∧ s.pc.toNat + 1 < 4096 ∧
      decodeBytes [s.mem.read s.pc.toNat, s.mem.read (s.pc.toNat + 1)] = .ok (.ldVxKk 0 0x05#8, [])) := by decide

theorem witness_FetchOutOfRangeFaults :
    ({ State.reset with pc := 0x0FFF#16 } : State).executorEnabled = true ∧
    4096 ≤ ({ State.reset with pc := 0x0FFF#16 } : State).pc.toNat + 1 ∧
    4096 ≤ ({ State.reset with pc := 0xFFFF#16 } : State).pc.toNat + 1 := by decide

theorem witness_UnknownOpcodeFaults :
    State.reset.executorEnabled = true ∧ State.reset.fetch = some 0x0000#16 ∧
    decodeWord 0x0000#16 = .error (.unknownOpcode 0x0000#16) := by decide

theorem witness_ExecutorHasAStepExactlyWhenEnabled :
    State.reset.stop.stopped = true ∧ (halted.stopped = false ∧ halted.halt = true) ∧
    ((waiting 5).stopped = false ∧ (waiting 5).halt = false ∧ (waiting 5).wait.isSome = true) ∧
    State.reset.executorEnabled = true := by decide

theorem witness_FaultsArePrecise :
    instrFault .ret (withDepth 0) = some .stackUnderflow ∧
    instrFault (.call 0x300#12) (withDepth 16) = some .stackOverflow ∧
    instrFault (.drw 0 0 2) (withI State.reset 0x0FFF#16) = some .dataOob ∧
    instrFault (.ldVxMem 1) (withI State.reset 0x0FFF#16) = some .dataOob ∧
    instrFault (.skp 5) (with2 5 0x10#8 1 0x00#8) = some .keyIndex := by decide

theorem witness_InstructionsWriteOnlyTheirParts :
    instrFault .ret (withDepth 16) = none ∧ instrFault (.call 0x300#12) (withDepth 15) = none ∧
    instrFault (.drw 0 0 0) (withI State.reset 0xFFFF#16) = none ∧
    instrFault (.ldBVx 0) (withI State.reset 0x0FFD#16) = none ∧
    instrFault (.sknp 5) (with2 5 0x0F#8 1 0x00#8) = none := by decide

theorem reset_stack_zero : ∀ j : Index16, State.reset.stack[j].toNat ≤ 0xFFE := by decide

theorem reset_inv : State.reset.Inv :=
  { memOk := rfl, pcMax := by decide, stackMax := reset_stack_zero, waitPc := by decide, noRecord := by decide,
    haltNoWait := by decide, boot := by decide }

theorem halted_inv : halted.Inv :=
  { memOk := rfl, pcMax := by decide, stackMax := reset_stack_zero, waitPc := by decide, noRecord := by decide,
    haltNoWait := by decide, boot := by decide }

theorem halted_explained : halted.RecordExplained := fun _ => by
  refine ⟨rfl, rfl, .inr (.inl ⟨rfl, by decide, by decide, rfl⟩)⟩

theorem witness_HaltedStateIsFinalUntilReset :
    halted.Inv ∧ halted.halt = true ∧ Move.keySet 2 true ≠ .reset ∧
    moveStep (.keySet 2 true) halted = .next (halted.keySet 2 true) := ⟨halted_inv, rfl, by decide, rfl⟩

theorem witness_AgentsTouchOnlyTheirParts :
    moveStep (.load []) State.reset = .next State.reset ∧ moveStep .tick (waitingRun 0) = .next (waitingRun 1) :=
  ⟨rfl, rfl⟩

/-- C5's self-jump. -/
theorem witness_ParkedStateKeepsEverything :
    (withBytes State.reset 0x200 [0x12#8, 0x00#8]).parkedAt 0x0200#16 ∧
    (withBytes State.reset 0x200 [0x12#8, 0x00#8]).executorEnabled = true :=
  ⟨⟨rfl, 0x200#12, by decide, by decide⟩, by decide⟩

/-- With no entry held all sixteen may differ; with one held, the first must agree. -/
theorem witness_EntriesAboveSpAreUnobservable :
    AgreeUpToSp (withDepth 0) State.reset ∧
    AgreeUpToSp (withDepth 1) { withDepth 1 with stack := (withDepth 1).stack.set 1 0x0FFE#16 } ∧
    (withDepth 0).stack ≠ State.reset.stack := by
  refine ⟨⟨rfl, by decide⟩, ⟨rfl, by decide⟩, by decide⟩

theorem witness_SoundTimerIsUnobservable :
    AgreeButSt State.reset { State.reset with st := 0xFF#8 } := rfl

theorem witness_DecodeOfEncodeIsTheInstruction : (Instr.drw 15 0 15).wf = true ∧ (Instr.shrVx 1 2).wf = true := by decide

theorem witness_EncodeOfDecodeIsTheWord : decodeWord 0x812E#16 = .ok (.shlVx 1 2) := by decide

theorem witness_DecodingIsByMaskAndMatch :
    (0xF00F#16, 0x800E#16) ∈ opcodeRows ∧ 0x812E#16 &&& 0xF00F#16 = 0x800E#16 ∧
    ∀ row ∈ opcodeRows, 0x0000#16 &&& row.1 ≠ row.2 := by simp [opcodeRows]

/-- Reset is a state with the invariants, and a step answers a next state there. -/
theorem witness_EveryStepKeepsTheInvariants :
    State.reset.Inv ∧ passes (nextState? (step State.reset)) (faulted .unknownOpcode 0x0000#16 0x0000#16) = true :=
  ⟨reset_inv, test_fetch_faults.1⟩

theorem witness_EveryStepKeepsTheRecordExplained :
    halted.Inv ∧ halted.RecordExplained ∧ halted.halt = true ∧
    step { halted with sched := [.tick] } = .next halted := ⟨halted_inv, halted_explained, rfl, rfl⟩

end Sys2Proof.Tests
end

section
/-! PROOFS. Which parts an instruction writes (spec 10_state.md R38): one frame lemma per part, from which the shared
operations and then the instructions are composed. -/

namespace Sys2Proof.Machine

/-! ### A write of one part leaves every other part -/

theorem State.v_sameBut (s : State) (v : Vector Byte 16) : SameBut [.v] s { s with v := v } := by
  intro p hp
  cases p <;> simp_all [Part.same, State.key]

theorem State.pc_sameBut (s : State) (w : Word) : SameBut [.pc] s { s with pc := w } := by
  intro p hp
  cases p <;> simp_all [Part.same, State.key, State.reg]

theorem State.stack_sameBut (s : State) (d : Fin 17) (stk : Vector Word 16) :
    SameBut [.stack] s { s with depth := d, stack := stk } := by
  intro p hp
  cases p <;> simp_all [Part.same, State.key, State.reg]

theorem State.i_sameBut (s : State) (w : Word) : SameBut [.i] s { s with i := w } := by
  intro p hp
  cases p <;> simp_all [Part.same, State.key, State.reg]

theorem State.dt_sameBut (s : State) (b : Byte) : SameBut [.dt] s { s with dt := b } := by
  intro p hp
  cases p <;> simp_all [Part.same, State.key, State.reg]

theorem State.st_sameBut (s : State) (b : Byte) : SameBut [.st] s { s with st := b } := by
  intro p hp
  cases p <;> simp_all [Part.same, State.key, State.reg]

theorem State.mem_sameBut (s : State) (m : Memory) : SameBut [.mem] s { s with mem := m } := by
  intro p hp
  cases p <;> simp_all [Part.same, State.key, State.reg]

theorem State.disp_sameBut (s : State) (d : Display) : SameBut [.disp] s { s with disp := d } := by
  intro p hp
  cases p <;> simp_all [Part.same, State.key, State.reg]

theorem State.wait_sameBut (s : State) (w : Option Index16) : SameBut [.wait] s { s with wait := w } := by
  intro p hp
  cases p <;> simp_all [Part.same, State.key, State.reg]

theorem State.rnd_sameBut (s : State) (rs : List Byte) (n : Nat) :
    SameBut [.rnd] s { s with rndIn := rs, draws := n } := by
  intro p hp
  cases p <;> simp_all [Part.same, State.key, State.reg]

/-! ### The shared operations -/

/-- One write after another writes the parts of both. -/
theorem SameBut.append {ps qs : List Part} {s t u : State} (h : SameBut ps s t) (h' : SameBut qs t u) :
    SameBut (ps ++ qs) s u :=
  (h.weaken (List.subset_append_left ps qs)).trans (h'.weaken (List.subset_append_right ps qs))

/-- A write of one part and the default advance. -/
theorem SameBut.advance {p : Part} {s t : State} (h : SameBut [p] s t) : SameBut [p, .pc] s t.advance :=
  h.append (t.pc_sameBut _)

theorem State.finish_sameBut (s : State) (x : Index16) (r : Byte) : SameBut [.v, .pc] s (s.finish x r) :=
  (s.v_sameBut _).advance

theorem State.finishFlag_sameBut (s : State) (x : Index16) (f r : Byte) :
    SameBut [.v, .pc] s (s.finishFlag x f r) :=
  (s.v_sameBut _).advance

theorem State.drawn_sameBut (s : State) (x y : Index16) (rows : List Byte) :
    SameBut [.disp, .v, .pc] s (s.drawn x y rows) :=
  (s.disp_sameBut _).append (State.v_sameBut _ _).advance

theorem State.storeAtI_sameBut {s : State} (w : Word) {bytes : List Byte} (h : s.i.toNat + bytes.length ≤ 4096) :
    SameBut [.mem, .pc] s (s.storeAtI w bytes) := by
  have hok : s.storeAtI w bytes = { s with mem := s.mem.writeList s.i.toNat bytes }.advance := State.storeAtI_ok w h
  rw [hok]
  exact (s.mem_sameBut _).advance

/-! ### The instructions -/

/-- An instruction's own check that passes refutes the condition it tests. -/
theorem instrFault_none_of_ite {c : Prop} [Decidable c] {e : Cause} {i : Instr} {s : State}
    (hi : instrFault i s = if c then some e else none) (h : instrFault i s = none) : ¬c := by
  intro hc
  rw [hi, if_pos hc] at h
  cases h

/-- A draw that passes its check of the range writes DISP, VF and PC; with no rows it leaves DISP. -/
theorem drw_writes {s : State} (x y : Index16) (n : Nat) (h : instrFault (.drw x y n) s = none) :
    Completes (.drw x y n) s (SameBut [.disp, .v, .pc] s) := by
  have hrange : ¬(1 ≤ n ∧ s.i.toNat + n - 1 ≥ 4096) := instrFault_none_of_ite rfl h
  cases n with
  | zero => exact ⟨_, exec_drw_zero s x y, (s.v_sameBut _).advance.weaken (by simp)⟩
  | succ n => exact ⟨_, exec_drw_ok x y (by omega) (by omega), s.drawn_sameBut x y _⟩

/-- Settles O46, by the instruction: each meaning is a composition of writes of single parts. -/
theorem instructionsWriteOnlyTheirParts : Obligations.InstructionsWriteOnlyTheirParts := by
  unfold Obligations.InstructionsWriteOnlyTheirParts
  intro i s h
  cases i with
  | cls => exact ⟨_, rfl, (s.disp_sameBut _).advance⟩
  | ret =>
    have hd : ¬s.depth.val = 0 := instrFault_none_of_ite rfl h
    exact ⟨_, exec_ret_held (by omega), (s.stack_sameBut ⟨s.depth.val - 1, by omega⟩ s.stack).append (State.pc_sameBut _ _)⟩
  | call nnn =>
    have hd : ¬s.depth.val = 16 := instrFault_none_of_ite rfl h
    exact ⟨_, exec_call_room nnn (by omega), (s.stack_sameBut ⟨s.depth.val + 1, by omega⟩
      (s.stack.set s.depth.val s.pc (by omega))).append (State.pc_sameBut _ _)⟩
  | jp _ | jpV0 _ | seVxKk _ _ | sneVxKk _ _ | seVxVy _ _ | sneVxVy _ _ => exact ⟨_, rfl, s.pc_sameBut _⟩
  | ldVxKk x _ | addVxKk x _ | ldVxVy x _ | orVxVy x _ | andVxVy x _ | xorVxVy x _ | ldVxDt x =>
    exact ⟨_, rfl, s.finish_sameBut x _⟩
  | addVxVy x _ | subVxVy x _ | shrVx x _ | subnVxVy x _ | shlVx x _ =>
    exact ⟨_, rfl, s.finishFlag_sameBut x _ _⟩
  | rnd x kk =>
    exact ⟨_, exec_rnd s x kk, (s.v_sameBut _).advance.append (State.rnd_sameBut _ _ _)⟩
  | drw x y n => exact drw_writes x y n h
  | skp x =>
    have hk : ¬(s.reg x).toNat ≥ 16 := instrFault_none_of_ite rfl h
    exact ⟨_, exec_skp_key (k := ⟨_, Nat.lt_of_not_ge hk⟩) rfl, s.pc_sameBut _⟩
  | sknp x =>
    have hk : ¬(s.reg x).toNat ≥ 16 := instrFault_none_of_ite rfl h
    exact ⟨_, exec_sknp_key (k := ⟨_, Nat.lt_of_not_ge hk⟩) rfl, s.pc_sameBut _⟩
  | ldI _ | addIVx _ | ldFVx _ => exact ⟨_, rfl, (s.i_sameBut _).advance⟩
  | ldVxK _ => exact ⟨_, rfl, s.wait_sameBut _⟩
  | ldDtVx _ => exact ⟨_, rfl, (s.dt_sameBut _).advance⟩
  | ldStVx _ => exact ⟨_, rfl, (s.st_sameBut _).advance⟩
  | ldBVx x =>
    have hr : ¬s.i.toNat + 2 ≥ 4096 := instrFault_none_of_ite rfl h
    exact ⟨_, rfl, State.storeAtI_sameBut _ (by rw [bcdDigits_length]; omega)⟩
  | ldMemVx x =>
    have hr : ¬s.i.toNat + x.val ≥ 4096 := instrFault_none_of_ite rfl h
    exact ⟨_, rfl, State.storeAtI_sameBut _ (by rw [State.regsTo_length]; omega)⟩
  | ldVxMem x =>
    have hr : ¬s.i.toNat + x.val ≥ 4096 := instrFault_none_of_ite rfl h
    exact ⟨_, exec_ldVxMem_ok x (by omega), (s.v_sameBut _).advance⟩

end Sys2Proof.Machine
end

section
/-! PROOFS. The sound timer and the stack entries above SP cannot be observed (spec 10_state.md R28, R31). Both claims run
over the same instructions and moves, so one relation, with a switch for each of the two fields, carries both. -/

namespace Sys2Proof.Machine

/-- What two outcomes have in common: next states in a relation, or the same stop. -/
inductive OutcomeAgrees (rel : State → State → Prop) :
    Host.Outcome State Fault Refusal → Host.Outcome State Fault Refusal → Prop
  | next {s t : State} (h : rel s t) : OutcomeAgrees rel (.next s) (.next t)
  | fault (f : Fault) : OutcomeAgrees rel (.fault f) (.fault f)
  | refused (r : Refusal) : OutcomeAgrees rel (.refused r) (.refused r)

theorem OutcomeAgrees.ite {rel : State → State → Prop} {c : Prop} [Decidable c]
    {o₁ o₂ o₁' o₂' : Host.Outcome State Fault Refusal}
    (h₁ : OutcomeAgrees rel o₁ o₁') (h₂ : OutcomeAgrees rel o₂ o₂') :
    OutcomeAgrees rel (if c then o₁ else o₂) (if c then o₁' else o₂') := by
  split
  · exact h₁
  · exact h₂

/-- Outcomes that agree are what `MoveAgrees` asks of a move, for any coarser relation. -/
theorem OutcomeAgrees.moveAgrees {rel rel' : State → State → Prop} {m : Move} {s t : State}
    (h : OutcomeAgrees rel (moveStep m s) (moveStep m t)) (hrel : ∀ s t, rel s t → rel' s t) :
    MoveAgrees rel' m s t := by
  unfold MoveAgrees
  generalize moveStep m s = o, moveStep m t = o' at h ⊢
  cases h with
  | next h =>
    refine ⟨fun s' e => ?_, by simp, by simp⟩
    cases e
    exact ⟨_, rfl, hrel _ _ h⟩
  | fault f => simp
  | refused r => simp

/-- The state with other contents of ST and STACK. -/
def State.withHidden (s : State) (b : Byte) (stk : Vector Word 16) : State := { s with st := b, stack := stk }

/-- Two states alike but for ST, where it is hidden, and the entries above SP, where they are. -/
inductive AlikeBut (hideSt hideStack : Prop) (s : State) : State → Prop
  | intro (b : Byte) (stk : Vector Word 16) (hst : hideSt ∨ b = s.st)
      (hstk : ∀ j : Index16, (hideStack → j.val < s.depth.val) → stk[j] = s.stack[j]) :
      AlikeBut hideSt hideStack s (s.withHidden b stk)

theorem agreeButSt_iff {s t : State} : AgreeButSt s t ↔ AlikeBut True False s t := by
  constructor
  · intro h
    obtain ⟨b, rfl⟩ : ∃ b, t = { s with st := b } := ⟨_, h⟩
    exact .intro b s.stack (.inl trivial) fun _ _ => rfl
  · rintro ⟨b, stk, -, hstk⟩
    obtain rfl : stk = s.stack := Vector.ext fun j hj => hstk ⟨j, hj⟩ False.elim
    rfl

theorem agreeUpToSp_iff {s t : State} : AgreeUpToSp s t ↔ AlikeBut False True s t := by
  constructor
  · rintro ⟨h, hstk⟩
    obtain ⟨stk, rfl⟩ : ∃ stk, t = { s with stack := stk } := ⟨_, h⟩
    exact .intro s.st stk (.inr rfl) fun j hj => hstk j (by have := hj trivial; rw [State.sp_eq]; omega)
  · rintro ⟨b, stk, hst, hstk⟩
    obtain rfl : b = s.st := hst.resolve_left id
    exact ⟨rfl, fun j hj => hstk j fun _ => by rw [State.sp_eq] at hj; omega⟩

section
variable {p q : Prop} {s t : State}

theorem AlikeBut.refl (s : State) : AlikeBut p q s s :=
  .intro s.st s.stack (.inr rfl) fun _ _ => rfl

theorem State.keyPress_waiting {s : State} {x : Index16} (k : Index16) (hw : s.wait = some x) (hh : s.halt = false) :
    s.keyPress k = { (s.setReg x (keyByte k)).advance with wait := none } := by
  simp [State.keyPress, hw, hh]

theorem State.keyPress_dropped {s : State} (k : Index16) (h : s.wait = none ∨ s.halt = true) : s.keyPress k = s := by
  cases hw : s.wait <;> simp_all [State.keyPress]

theorem State.draw_withHidden (s : State) (b : Byte) (stk : Vector Word 16) :
    (s.withHidden b stk).draw = (s.draw.1, s.draw.2.withHidden b stk) := by
  cases h : s.rndIn with
  | nil => rw [State.draw_free h, State.draw_free (s := s.withHidden b stk) h]; rfl
  | cons r rest => rw [State.draw_supplied h, State.draw_supplied (s := s.withHidden b stk) h]; rfl

/-- RET reads the top entry, which is not above SP. -/
theorem AlikeBut.exec_ret (h : AlikeBut p q s t) : OutcomeAgrees (AlikeBut p q) (exec .ret s) (exec .ret t) := by
  obtain ⟨b, stk, hst, hstk⟩ := h
  by_cases hd : s.depth.val = 0
  · rw [exec_ret_empty hd, exec_ret_empty (s := s.withHidden b stk) hd]
    exact .next (.intro b stk hst hstk)
  · have hpos : 0 < s.depth.val := by omega
    have htop : stk[s.depth.val - 1]'(by omega) = s.stack[s.depth.val - 1]'(by omega) :=
      hstk ⟨s.depth.val - 1, by omega⟩ fun _ => Nat.sub_lt hpos Nat.one_pos
    rw [exec_ret_held hpos, exec_ret_held (s := s.withHidden b stk) hpos, ← htop]
    exact .next (.intro b stk hst fun j hj => hstk j fun hq => Nat.lt_of_lt_of_le (hj hq) (Nat.sub_le _ _))

/-- CALL writes the entry that becomes the top one, with the same address in both. -/
theorem AlikeBut.exec_call (nnn : Addr12) (h : AlikeBut p q s t) :
    OutcomeAgrees (AlikeBut p q) (exec (.call nnn) s) (exec (.call nnn) t) := by
  obtain ⟨b, stk, hst, hstk⟩ := h
  by_cases hd : s.depth.val = 16
  · rw [exec_call_full nnn hd, exec_call_full (s := s.withHidden b stk) nnn hd]
    exact .next (.intro b stk hst hstk)
  · have hroom : s.depth.val < 16 := by omega
    rw [exec_call_room nnn hroom, exec_call_room (s := s.withHidden b stk) nnn hroom]
    refine .next (.intro b (stk.set s.depth.val s.pc hroom) hst fun j hj => ?_)
    by_cases htop : s.depth.val = j.val
    · simp [htop]
    · have hold := hstk j fun hq => by have : j.val < s.depth.val + 1 := hj hq; omega
      simpa [htop] using hold

/-- RND writes Vx and the random source, from the same draw in both. -/
theorem AlikeBut.exec_rnd (x : Index16) (kk : Byte) (h : AlikeBut p q s t) :
    OutcomeAgrees (AlikeBut p q) (exec (.rnd x kk) s) (exec (.rnd x kk) t) := by
  obtain ⟨b, stk, hst, hstk⟩ := h
  rw [Machine.exec_rnd s, Machine.exec_rnd (s.withHidden b stk), State.draw_withHidden]
  exact .next (.intro b stk hst hstk)

/-- A skip on a key reads Vx and that key's flag alone; `f` is the sense of the skip. -/
theorem AlikeBut.exec_keySkip {i : Instr} {x : Index16} {f : Bool → Bool}
    (hbad : ∀ {s : State}, 16 ≤ (s.reg x).toNat → exec i s = .next (s.raise .keyIndex (encodeWord i)))
    (hkey : ∀ {s : State} {k : Index16}, (s.reg x).toNat = k.val → exec i s = .next (s.skipIf (f (s.key k))))
    (h : AlikeBut p q s t) : OutcomeAgrees (AlikeBut p q) (exec i s) (exec i t) := by
  obtain ⟨b, stk, hst, hstk⟩ := h
  by_cases hk : 16 ≤ (s.reg x).toNat
  · rw [hbad hk, hbad (s := s.withHidden b stk) hk]
    exact .next (.intro b stk hst hstk)
  · have hlt : (s.reg x).toNat < 16 := Nat.lt_of_not_ge hk
    rw [hkey (k := ⟨_, hlt⟩) rfl, hkey (s := s.withHidden b stk) (k := ⟨_, hlt⟩) rfl]
    exact .next (.intro b stk hst hstk)

theorem AlikeBut.storeAtI (w : Word) (bytes : List Byte) (h : AlikeBut p q s t) :
    AlikeBut p q (s.storeAtI w bytes) (t.storeAtI w bytes) := by
  obtain ⟨b, stk, hst, hstk⟩ := h
  by_cases hr : s.i.toNat + bytes.length ≤ 4096
  · rw [State.storeAtI_ok w hr, State.storeAtI_ok (s := s.withHidden b stk) w hr]
    exact .intro b stk hst hstk
  · have hr' : 4096 < s.i.toNat + bytes.length := Nat.lt_of_not_ge hr
    rw [State.storeAtI_oob w hr', State.storeAtI_oob (s := s.withHidden b stk) w hr']
    exact .intro b stk hst hstk

theorem AlikeBut.exec_ldVxMem (x : Index16) (h : AlikeBut p q s t) :
    OutcomeAgrees (AlikeBut p q) (exec (.ldVxMem x) s) (exec (.ldVxMem x) t) := by
  obtain ⟨b, stk, hst, hstk⟩ := h
  have hregs : (s.withHidden b stk).loadedRegs x = s.loadedRegs x := rfl
  by_cases hr : s.i.toNat + x.val < 4096
  · rw [exec_ldVxMem_ok x hr, exec_ldVxMem_ok (s := s.withHidden b stk) x hr, hregs]
    exact .next (.intro b stk hst hstk)
  · have hr' : 4096 ≤ s.i.toNat + x.val := Nat.le_of_not_lt hr
    rw [exec_ldVxMem_oob x hr', exec_ldVxMem_oob (s := s.withHidden b stk) x hr']
    exact .next (.intro b stk hst hstk)

/-- Every instruction: but for CALL, RET and LD ST none reads or writes what is hidden. -/
theorem AlikeBut.exec (i : Instr) (h : AlikeBut p q s t) :
    OutcomeAgrees (AlikeBut p q) (exec i s) (exec i t) := by
  obtain ⟨b, stk, hst, hstk⟩ := h
  have h : AlikeBut p q s (s.withHidden b stk) := .intro b stk hst hstk
  cases i with
  | ret => exact h.exec_ret
  | call nnn => exact h.exec_call nnn
  | rnd x kk => exact h.exec_rnd x kk
  | drw x y n =>
    exact .ite (.next (.intro b stk hst hstk))
      (.ite (.next (.intro b stk hst hstk)) (.next (.intro b stk hst hstk)))
  | skp x => exact h.exec_keySkip (f := id) exec_skp_bad exec_skp_key
  | sknp x => exact h.exec_keySkip (f := not) exec_sknp_bad exec_sknp_key
  | ldStVx x => exact .next (.intro (s.reg x) stk (.inr rfl) hstk)
  | ldBVx x => exact .next (h.storeAtI _ _)
  | ldMemVx x => exact .next (h.storeAtI _ _)
  | ldVxMem x => exact h.exec_ldVxMem x
  | _ => exact .next (.intro b stk hst hstk)

theorem AlikeBut.runInstruction (h : AlikeBut p q s t) :
    OutcomeAgrees (AlikeBut p q) (runInstruction s) (runInstruction t) := by
  obtain ⟨b, stk, hst, hstk⟩ := h
  have h : AlikeBut p q s (s.withHidden b stk) := .intro b stk hst hstk
  have hfetch : (s.withHidden b stk).fetch = s.fetch := rfl
  unfold Machine.runInstruction
  rw [hfetch]
  cases s.fetch with
  | none => exact .next (.intro b stk hst hstk)
  | some w =>
    cases hd : decodeWord w with
    | error e => simpa only [hd] using .next (.intro b stk hst hstk)
    | ok i => simpa only [hd] using h.exec i

theorem AlikeBut.executorTurn (h : AlikeBut p q s t) :
    OutcomeAgrees (AlikeBut p q) (executorTurn s) (executorTurn t) := by
  obtain ⟨b, stk, hst, hstk⟩ := h
  have h : AlikeBut p q s (s.withHidden b stk) := .intro b stk hst hstk
  have hbegin : AlikeBut p q s.begin (s.withHidden b stk).begin := .intro b stk hst hstk
  exact .ite (.fault _) (.ite (.next h) hbegin.runInstruction)

theorem AlikeBut.tick (h : AlikeBut p q s t) : AlikeBut p q s.tick t.tick := by
  obtain ⟨b, stk, hst, hstk⟩ := h
  rw [tick_eq, tick_eq (s.withHidden b stk)]
  refine .intro (if s.halt then b else countDown b) stk (hst.imp_right fun e => ?_) hstk
  rw [e]

theorem AlikeBut.keyPress (k : Index16) (h : AlikeBut p q s t) : AlikeBut p q (s.keyPress k) (t.keyPress k) := by
  obtain ⟨b, stk, hst, hstk⟩ := h
  rcases keyPress_cases s k with ⟨x, hw, hh, -⟩ | ⟨hdrop, -⟩
  · rw [State.keyPress_waiting k hw hh, State.keyPress_waiting (s := s.withHidden b stk) k hw hh]
    exact .intro b stk hst hstk
  · rw [State.keyPress_dropped k hdrop, State.keyPress_dropped (s := s.withHidden b stk) k hdrop]
    exact .intro b stk hst hstk

theorem AlikeBut.load (bytes : List Byte) (h : AlikeBut p q s t) :
    OutcomeAgrees (AlikeBut p q) (s.load bytes) (t.load bytes) := by
  obtain ⟨b, stk, hst, hstk⟩ := h
  exact .ite (.refused _) (.ite (.refused _) (.next (.intro b stk hst hstk)))

/-- Alike states answer every move alike. -/
theorem AlikeBut.moveStep (m : Move) (h : AlikeBut p q s t) :
    OutcomeAgrees (AlikeBut p q) (moveStep m s) (moveStep m t) := by
  obtain ⟨b, stk, hst, hstk⟩ := h
  have h : AlikeBut p q s (s.withHidden b stk) := .intro b stk hst hstk
  refine .ite (.refused _) ?_
  cases m with dsimp only
  | execute => exact h.executorTurn
  | tick => exact .next h.tick
  | keySet k pressed => exact .next (.intro b stk hst hstk)
  | keyPress k => exact .next (h.keyPress k)
  | render => exact .next h
  | reset => exact .next (.refl s.applyReset)
  | load bytes => exact h.load bytes
  | stop => exact .next (.intro b stk hst hstk)

end

/-- Settles O50: CALL overwrites the entry above SP before RET can read it, and nothing else reads the stack. -/
theorem entriesAboveSpAreUnobservable : Obligations.EntriesAboveSpAreUnobservable := by
  unfold Obligations.EntriesAboveSpAreUnobservable
  intro m s t h
  exact ((agreeUpToSp_iff.1 h).moveStep m).moveAgrees fun _ _ => agreeUpToSp_iff.2

/-- Settles O51: LD ST and the tick write ST, and nothing but the tick reads it. -/
theorem soundTimerIsUnobservable : Obligations.SoundTimerIsUnobservable := by
  unfold Obligations.SoundTimerIsUnobservable
  intro m s t h
  exact ((agreeButSt_iff.1 h).moveStep m).moveAgrees fun _ _ => agreeButSt_iff.2

end Sys2Proof.Machine
end

section
/-! PROOFS. What the executor's fetch sees: a fault where PC + 1 leaves memory, and a store to the next word as soon as it
is made (spec 20_memory.md R64, R65, R69, R75). -/

namespace Sys2Proof.Machine

theorem State.begin_sameBut (s : State) : SameBut [.run] s s.begin := by
  intro p hp
  cases p <;> simp_all [Part.same, State.key]

theorem runInstruction_fetch_none {s : State} (h : s.fetch = none) :
    runInstruction s = .next (s.raise .fetchOob 0x0000#16) := by
  simp only [runInstruction, h]

/-- Settles O42: the fetch is checked before anything else of the turn, so the turn is fault entry. -/
theorem fetchOutOfRangeFaults : Obligations.FetchOutOfRangeFaults := by
  unfold Obligations.FetchOutOfRangeFaults
  intro s he hpc
  obtain ⟨-, -, hrun⟩ := (executorEnabled_iff s).1 he
  have hmove : moveStep .execute s = .next (s.begin.raise .fetchOob 0x0000#16) :=
    calc moveStep .execute s
      _ = runInstruction s.begin := (moveStep_running .execute hrun).trans (executorTurn_enabled he)
      _ = .next (s.begin.raise .fetchOob 0x0000#16) := runInstruction_fetch_none (State.fetch_oob (s := s.begin) hpc)
  exact ⟨_, hmove, ⟨lowestOob s.pc.toNat, lowestOob_toNat s.pc.isLt, s.begin.raise_record _ _⟩,
    (s.begin_sameBut.append (s.begin.raise_sameBut _ _)).weaken (by simp), rfl, hrun⟩

/-- Where the stored range fits in memory, the store reads back as `byteAfterStore` says, at every address. -/
theorem State.read_writeList_at_i {s : State} {bytes : List Byte} (a : Nat) (hwf : s.mem.wf = true)
    (h : s.i.toNat + bytes.length ≤ 4096) :
    (s.mem.writeList s.i.toNat bytes).read a = s.byteAfterStore bytes a := by
  unfold State.byteAfterStore
  by_cases ha : s.i.toNat ≤ a ∧ a < s.i.toNat + bytes.length
  · have hlt : a - s.i.toNat < bytes.length := by omega
    rw [Memory.read_writeList a hwf h, if_pos ha.1, if_pos ha, List.getD_eq_getElem _ _ hlt, List.getD_eq_getElem _ _ hlt]
  · rw [if_neg ha, Memory.read_writeList_outside hwf h (by omega)]

theorem word_add_toNat {w : Word} {k : Nat} (h : w.toNat + k < 65536) : (w + BitVec.ofNat 16 k).toNat = w.toNat + k := by
  rw [BitVec.toNat_add, BitVec.toNat_ofNat, Nat.mod_eq_of_lt (a := k) (by omega), Nat.mod_eq_of_lt h]

/-- The fetch right after a store through I, of whatever bytes. -/
theorem State.fetch_after_store {s : State} {bytes : List Byte} (hwf : s.mem.wf = true)
    (hpc : s.pc.toNat + 3 < 4096) (h : s.i.toNat + bytes.length ≤ 4096) :
    ({ s with pc := s.pc + 2#16, mem := s.mem.writeList s.i.toNat bytes } : State).fetch =
      some (wordOfBytes (s.byteAfterStore bytes (s.pc.toNat + 2)) (s.byteAfterStore bytes (s.pc.toNat + 3))) := by
  have hnext : (s.pc + 2#16).toNat = s.pc.toNat + 2 := word_add_toNat (by omega)
  rw [State.fetch_inRange (by rw [hnext]; omega), hnext, s.read_writeList_at_i _ hwf h, s.read_writeList_at_i _ hwf h]

/-- Settles O29: both stores are a store of a list of bytes through I, and the fetch reads the memory they leave. -/
theorem storeIsSeenByTheNextFetch : Obligations.StoreIsSeenByTheNextFetch := by
  unfold Obligations.StoreIsSeenByTheNextFetch
  intro x s hwf hpc
  constructor
  · intro h
    exact ⟨_, exec_ldMemVx_ok x h, State.fetch_after_store hwf hpc (by rw [State.regsTo_length]; omega)⟩
  · intro h
    exact ⟨_, exec_ldBVx_ok x h, State.fetch_after_store hwf hpc (by rw [bcdDigits_length]; omega)⟩

end Sys2Proof.Machine
end

section
/-! PROOFS. Every step keeps the invariants (spec 10_state.md R25, R35; 20_memory.md R60; 44_keypad_timers.md R215;
70_reset_and_hazards.md R276): first what each write of the state keeps, then the instructions, then the agents' moves. -/

namespace Sys2Proof.Machine

/-! ### Writes that keep the invariants -/

theorem State.reset_inv : State.reset.Inv where
  memOk := State.reset_mem_wf
  pcMax := by decide
  stackMax := fun j => by simp [State.reset]
  waitPc := fun hsome => by cases hsome
  noRecord := fun _ => ⟨rfl, rfl, rfl, rfl⟩
  haltNoWait := fun _ => rfl
  boot := fun _ => ⟨rfl, rfl, rfl⟩

section
variable {s : State}

/-- The invariants do not speak of these parts, so every write of them keeps the invariants. -/
theorem State.Inv.frame (h : s.Inv) {v : Vector Byte 16} {depth : Fin 17} {i : Word} {dt st : Byte} {disp : Display}
    {keys : Vector Bool 16} {stopped : Bool} {sched : List Move} {rndIn : List Byte} {draws : Nat} :
    State.Inv { s with v := v, depth := depth, i := i, dt := dt, st := st, disp := disp, keys := keys,
                       stopped := stopped, sched := sched, rndIn := rndIn, draws := draws } :=
  { h with }

/-- The first step of the executor ends what boot left. -/
theorem State.Inv.begin (h : s.Inv) : s.begin.Inv :=
  { h with boot := fun hns => by cases hns }

theorem State.Inv.mem (h : s.Inv) {m : Memory} (hm : m.wf = true) : State.Inv { s with mem := m } :=
  { h with memOk := hm }

/-- Fault entry, from a state that has started and does not wait. -/
theorem State.Inv.raise (h : s.Inv) (hs : s.started = true) (hw : s.wait = none) (c : Cause) (w : Word) :
    (s.raise c w).Inv :=
  { h with
    noRecord := fun hh => by cases hh
    haltNoWait := fun _ => hw
    boot := fun hns => by cases hs.symm.trans hns }

end

/-! ### The state an instruction runs in -/

/-- The invariants where the executor has fetched a word: it has started, it is neither halted nor waiting, and the fetch
was in range (R69). -/
structure State.Fetched (s : State) : Prop extends s.Inv where
  /-- the executor's turn has begun -/
  started : s.started = true
  /-- a halted executor has no turn -/
  running : s.halt = false
  /-- a waiting executor is held -/
  noWait : s.wait = none
  /-- the word at PC was fetched -/
  pcFetched : s.pc.toNat ≤ 0xFFE

section
variable {s : State}

theorem State.Fetched.frame (h : s.Fetched) {v : Vector Byte 16} {depth : Fin 17} {i : Word} {dt st : Byte}
    {disp : Display} {rndIn : List Byte} {draws : Nat} :
    State.Fetched { s with v := v, depth := depth, i := i, dt := dt, st := st, disp := disp,
                           rndIn := rndIn, draws := draws } :=
  { h with toInv := h.toInv.frame }

theorem State.Fetched.mem (h : s.Fetched) {m : Memory} (hm : m.wf = true) : State.Fetched { s with mem := m } :=
  { h with toInv := h.toInv.mem hm }

theorem State.Fetched.raise (h : s.Fetched) (c : Cause) (w : Word) : (s.raise c w).Inv :=
  h.toInv.raise h.started h.noWait c w

/-- Every change of PC is to an address of at most 0x10FE. -/
theorem State.Fetched.jump (h : s.Fetched) {w : Word} (hw : w.toNat ≤ 0x10FE) : (s.jump w).Inv :=
  { h.toInv with
    pcMax := hw
    waitPc := fun hsome => by rw [State.jump_wait, h.noWait] at hsome; cases hsome
    boot := fun hns => by cases h.started.symm.trans hns }

theorem State.Fetched.jump_add (h : s.Fetched) {k : Nat} (hk : k ≤ 4) : (s.jump (s.pc + BitVec.ofNat 16 k)).Inv := by
  have hpc := h.pcFetched
  exact h.jump (by rw [word_add_toNat (by omega)]; omega)

theorem State.Fetched.advance (h : s.Fetched) : s.advance.Inv := h.jump_add (k := 2) (by decide)

theorem State.Fetched.skipIf (h : s.Fetched) (c : Bool) : (s.skipIf c).Inv := by
  cases c
  · exact h.advance
  · exact h.jump_add (k := 4) (by decide)

/-- CALL's write of the stack: the address pushed is that of the fetched CALL (R25, R124). -/
theorem State.Fetched.push (h : s.Fetched) {d : Fin 17} {k : Nat} (hk : k < 16) :
    State.Fetched { s with depth := d, stack := s.stack.set k s.pc hk } :=
  { h with
    stackMax := fun j => by
      by_cases hj : k = j.val
      · simpa [hj] using h.pcFetched
      · simpa [hj] using h.stackMax j }

/-- Fx0A waits with PC still at its own address (R214). -/
theorem State.Fetched.wait (h : s.Fetched) (x : Index16) : State.Inv { s with wait := some x } :=
  { h.toInv with
    waitPc := fun _ => h.pcFetched
    haltNoWait := fun hh => by cases h.running.symm.trans hh
    boot := fun hns => by cases h.started.symm.trans hns }

theorem State.Fetched.storeAtI (h : s.Fetched) (w : Word) (bytes : List Byte) : (s.storeAtI w bytes).Inv := by
  by_cases hr : s.i.toNat + bytes.length ≤ 4096
  · rw [State.storeAtI_ok w hr]
    exact (h.mem (Memory.writeList_wf h.memOk hr)).advance
  · rw [State.storeAtI_oob w (by omega)]
    exact h.raise _ _

/-! ### The instructions -/

theorem zextAddr_le (nnn : Addr12) : (zextAddr nnn).toNat ≤ 0xFFF := by
  have := nnn.isLt
  rw [zextAddr_toNat]; omega

/-- JP V0's target at its greatest is 0xFFF + 0xFF (R25, R129). -/
theorem jpV0_target_le (nnn : Addr12) (b : Byte) : (zextAddr nnn + zextByte b).toNat ≤ 0x10FE := by
  have := nnn.isLt
  have := b.isLt
  rw [BitVec.toNat_add, zextAddr_toNat, zextByte_toNat]; omega

theorem State.Fetched.exec_ret (h : s.Fetched) : Completes .ret s State.Inv := by
  by_cases hd : s.depth.val = 0
  · exact ⟨_, exec_ret_empty hd, h.raise _ _⟩
  · have hpos : 0 < s.depth.val := Nat.pos_of_ne_zero hd
    have htop : (s.stack[s.depth.val - 1]'(by omega)).toNat ≤ 0xFFE := h.stackMax ⟨s.depth.val - 1, by omega⟩
    have hpopped : State.Fetched { s with depth := ⟨s.depth.val - 1, by omega⟩ } := h.frame
    exact ⟨_, exec_ret_held hpos, hpopped.jump (by rw [word_add_toNat] <;> omega)⟩

theorem State.Fetched.exec_call (h : s.Fetched) (nnn : Addr12) : Completes (.call nnn) s State.Inv := by
  by_cases hd : s.depth.val = 16
  · exact ⟨_, exec_call_full nnn hd, h.raise _ _⟩
  · exact ⟨_, exec_call_room nnn (by omega), (h.push (by omega)).jump ((zextAddr_le nnn).trans (by decide))⟩

theorem State.Fetched.exec_drw (h : s.Fetched) (x y : Index16) (n : Nat) : Completes (.drw x y n) s State.Inv := by
  by_cases hn : n = 0
  · subst hn
    exact ⟨_, exec_drw_zero s x y, h.frame.advance⟩
  · by_cases hr : s.i.toNat + n ≤ 4096
    · exact ⟨_, exec_drw_ok x y (by omega) hr, h.frame.advance⟩
    · exact ⟨_, exec_drw_oob x y (by omega) (by omega), h.raise _ _⟩

theorem State.Fetched.exec_ldVxMem (h : s.Fetched) (x : Index16) : Completes (.ldVxMem x) s State.Inv := by
  by_cases hr : s.i.toNat + x.val < 4096
  · have hloaded : State.Fetched { s with v := s.loadedRegs x } := h.frame
    exact ⟨_, exec_ldVxMem_ok x hr, hloaded.advance⟩
  · exact ⟨_, exec_ldVxMem_oob x (by omega), h.raise _ _⟩

/-- A skip on a key is a skip where Vx is a key number and fault entry where it is none; `c` is the skip's condition. -/
theorem State.Fetched.exec_keySkip {i : Instr} {x : Index16} {c : Index16 → Bool} (h : s.Fetched)
    (hbad : 16 ≤ (s.reg x).toNat → exec i s = .next (s.raise .keyIndex (encodeWord i)))
    (hkey : ∀ k : Index16, (s.reg x).toNat = k.val → exec i s = .next (s.skipIf (c k))) :
    Completes i s State.Inv := by
  by_cases hk : 16 ≤ (s.reg x).toNat
  · exact ⟨_, hbad hk, h.raise _ _⟩
  · exact ⟨_, hkey ⟨_, Nat.lt_of_not_ge hk⟩ rfl, h.skipIf _⟩

/-- Every instruction completes in a state that meets the invariants. -/
theorem State.Fetched.exec (h : s.Fetched) (i : Instr) : Completes i s State.Inv := by
  cases i with
  | ret => exact h.exec_ret
  | call nnn => exact h.exec_call nnn
  | jp nnn => exact ⟨_, rfl, h.jump ((zextAddr_le nnn).trans (by decide))⟩
  | jpV0 nnn => exact ⟨_, rfl, h.jump (jpV0_target_le nnn _)⟩
  | seVxKk _ _ | sneVxKk _ _ | seVxVy _ _ | sneVxVy _ _ => exact ⟨_, rfl, h.skipIf _⟩
  | skp x => exact h.exec_keySkip exec_skp_bad fun _ => exec_skp_key
  | sknp x => exact h.exec_keySkip exec_sknp_bad fun _ => exec_sknp_key
  | drw x y n => exact h.exec_drw x y n
  | rnd x kk => exact ⟨_, exec_rnd s x kk, h.frame.advance⟩
  | ldVxK x => exact ⟨_, rfl, h.wait x⟩
  | ldBVx _ | ldMemVx _ => exact ⟨_, rfl, h.storeAtI _ _⟩
  | ldVxMem x => exact h.exec_ldVxMem x
  | _ => exact ⟨_, rfl, h.frame.advance⟩

/-! ### The agents' moves -/

/-- A fault of the fetch or of decode, and the instruction fetched, keep the invariants. -/
theorem State.Inv.runInstruction (h : s.Inv) (hs : s.started = true) (hh : s.halt = false) (hw : s.wait = none) :
    ∃ t, runInstruction s = .next t ∧ t.Inv := by
  rcases runInstruction_cases s with ⟨-, hrun⟩ | ⟨w, e, -, -, hrun⟩ | ⟨w, i, hf, -, hrun⟩
  · exact ⟨_, hrun, h.raise hs hw _ _⟩
  · exact ⟨_, hrun, h.raise hs hw _ _⟩
  · have hfetched : s.Fetched := { h with started := hs, running := hh, noWait := hw, pcFetched := (State.fetch_some hf).1 }
    rw [hrun]
    exact hfetched.exec i

theorem State.Inv.executorTurn {t : State} (h : s.Inv) (ht : executorTurn s = .next t) : t.Inv := by
  obtain ⟨hh, ⟨-, rfl⟩ | ⟨hw, hrun⟩⟩ := executorTurn_next ht
  · exact h
  · obtain ⟨t', ht', hinv⟩ := h.begin.runInstruction rfl hh hw
    cases ht'.symm.trans hrun
    exact hinv

/-- A core waits for a key only once the executor has started. -/
theorem State.Inv.started_of_waiting (h : s.Inv) {x : Index16} (hw : s.wait = some x) : s.started = true := by
  cases hs : s.started with
  | true => rfl
  | false =>
    obtain ⟨-, -, hnone⟩ := h.boot hs
    cases hw.symm.trans hnone

/-- The advance that completes a wait is from the address of an Fx0A, so it stays in range. -/
theorem State.Inv.keyPress (h : s.Inv) (k : Index16) : (s.keyPress k).Inv := by
  rcases keyPress_cases s k with ⟨x, hw, hh, hkey⟩ | ⟨-, hkey⟩
  · have hpc : s.pc.toNat ≤ 0xFFE := h.waitPc (by rw [hw]; rfl)
    have hs : s.started = true := h.started_of_waiting hw
    have hdone : State.Fetched { s with wait := none } :=
      { h with
        waitPc := fun hsome => by cases hsome
        haltNoWait := fun _ => rfl
        boot := fun hns => by cases hs.symm.trans hns
        started := hs, running := hh, noWait := rfl, pcFetched := hpc }
    rw [hkey]
    exact hdone.frame.advance
  · rw [hkey]; exact h

theorem State.Inv.load {t : State} {bytes : List Byte} (h : s.Inv) (ht : s.load bytes = .next t) : t.Inv := by
  obtain ⟨hlen, -, rfl⟩ := load_next ht
  exact h.mem (Memory.writeList_wf h.memOk (by simp only [Config.memSize]; omega))

theorem State.Inv.moveStep {m : Move} {t : State} (h : s.Inv) (ht : moveStep m s = .next t) : t.Inv := by
  rw [moveStep_running m (moveStep_next_running ht)] at ht
  cases m with
  | execute => exact h.executorTurn ht
  | tick => cases ht; rw [tick_eq]; exact h.frame
  | keySet k b => cases ht; exact h.frame
  | keyPress k => cases ht; exact h.keyPress k
  | render => cases ht; exact h
  | reset => cases ht; exact State.reset_inv.frame
  | load bytes => exact h.load ht
  | stop => cases ht; exact h.frame

end

/-- Settles O58, by the agent that moves: taking the move writes the schedule alone, and its step keeps the invariants. -/
theorem everyStepKeepsTheInvariants : Obligations.EveryStepKeepsTheInvariants := by
  unfold Obligations.EveryStepKeepsTheInvariants
  intro s t h ht
  exact h.frame.moveStep ((step_eq s).symm.trans ht)

end Sys2Proof.Machine
end

section
/-! PROOFS. The decoder and the encoder are inverse to each other (spec 30_encoding.md R90 to R96). -/

namespace Sys2Proof

/-! ### From an instruction to its word and back -/

/-- Format by format (R94): each field of the encoded word is the operand that was laid there. -/
theorem decodeWord_encodeWord {i : Instr} (h : i.wf = true) : decodeWord (encodeWord i) = .ok i := by
  cases i with
  | cls | ret => rfl
  | jp _ | call _ | ldI _ | jpV0 _ => simp [encodeWord, decodeWord]
  | seVxKk _ _ | sneVxKk _ _ | ldVxKk _ _ | addVxKk _ _ | rnd _ _ => simp [encodeWord, decodeWord]
  | drw x y n =>
    have hn : n < 16 := of_decide_eq_true h
    simp [encodeWord, decodeWord, Nat.mod_eq_of_lt hn]
  | seVxVy _ _ => simp [encodeWord, decodeWord, decodeFamily5]
  | sneVxVy _ _ => simp [encodeWord, decodeWord, decodeFamily9]
  | ldVxVy _ _ | orVxVy _ _ | andVxVy _ _ | xorVxVy _ _ | addVxVy _ _ | subVxVy _ _ | shrVx _ _ | subnVxVy _ _
  | shlVx _ _ => simp [encodeWord, decodeWord, decodeFamily8]
  | skp _ | sknp _ => simp [encodeWord, decodeWord, decodeFamilyE]
  | ldVxDt _ | ldVxK _ | ldDtVx _ | ldStVx _ | addIVx _ | ldFVx _ | ldBVx _ | ldMemVx _ | ldVxMem _ =>
    simp [encodeWord, decodeWord, decodeFamilyF]

/-- Settles O53: the two bytes of an encoding make its word again, and that word decodes to the instruction. -/
theorem decodeOfEncodeIsTheInstruction : Obligations.DecodeOfEncodeIsTheInstruction := by
  unfold Obligations.DecodeOfEncodeIsTheInstruction
  intro i rest h
  calc decodeBytes (encode i ++ rest)
    _ = decodeBytes (highByte (encodeWord i) :: lowByte (encodeWord i) :: rest) := rfl
    _ = .ok (i, rest) := by rw [decodeBytes_split, decodeWord_encodeWord h]

/-! ### From a word to its instruction and back -/

section
variable {w : Word} {i : Instr} {x y : Index16} {f n k : Nibble} {kk b : Byte}

theorem wordNNN_of_family (hf : (familyOf w).toNat = f.toNat) : wordNNN f (nnnOf w) = w := by
  rw [← BitVec.eq_of_toNat_eq hf, wordNNN_fields]

theorem wordXKK_of_family (hf : (familyOf w).toNat = f.toNat) : wordXKK f (xOf w).toIndex (kkOf w) = w := by
  rw [← BitVec.eq_of_toNat_eq hf, wordXKK_fields]

theorem wordXYN_of_family (hf : (familyOf w).toNat = f.toNat) :
    wordXYN f (xOf w).toIndex (yOf w).toIndex (nOf w) = w := by
  rw [← BitVec.eq_of_toNat_eq hf, wordXYN_fields]

theorem wordXYN_of_subop (hn : n.toNat = k.toNat) : wordXYN f x y k = wordXYN f x y n := by
  rw [BitVec.eq_of_toNat_eq hn]

theorem wordXKK_of_subop (hkk : kk.toNat = b.toNat) : wordXKK f x b = wordXKK f x kk := by
  rw [BitVec.eq_of_toNat_eq hkk]

theorem decodeFamily0_ok (h : decodeFamily0 w = .ok i) : i.wf = true ∧ encodeWord i = w := by
  unfold decodeFamily0 at h
  split_ifs at h with hcls hret
  · cases h; exact ⟨rfl, hcls.symm⟩
  · cases h; exact ⟨rfl, hret.symm⟩

theorem decodeFamily5_ok (h : decodeFamily5 w x y n.toNat = .ok i) :
    i.wf = true ∧ encodeWord i = wordXYN 0x5#4 x y n := by
  unfold decodeFamily5 at h
  split at h <;> rename_i hn <;> cases h
  exact ⟨rfl, wordXYN_of_subop hn⟩

theorem decodeFamily8_ok (h : decodeFamily8 w x y n.toNat = .ok i) :
    i.wf = true ∧ encodeWord i = wordXYN 0x8#4 x y n := by
  unfold decodeFamily8 at h
  split at h <;> rename_i hn <;> cases h
  all_goals exact ⟨rfl, wordXYN_of_subop hn⟩

theorem decodeFamily9_ok (h : decodeFamily9 w x y n.toNat = .ok i) :
    i.wf = true ∧ encodeWord i = wordXYN 0x9#4 x y n := by
  unfold decodeFamily9 at h
  split at h <;> rename_i hn <;> cases h
  exact ⟨rfl, wordXYN_of_subop hn⟩

theorem decodeFamilyE_ok (h : decodeFamilyE w x kk.toNat = .ok i) :
    i.wf = true ∧ encodeWord i = wordXKK 0xE#4 x kk := by
  unfold decodeFamilyE at h
  split at h <;> rename_i hkk <;> cases h
  all_goals exact ⟨rfl, wordXKK_of_subop hkk⟩

theorem decodeFamilyF_ok (h : decodeFamilyF w x kk.toNat = .ok i) :
    i.wf = true ∧ encodeWord i = wordXKK 0xF#4 x kk := by
  unfold decodeFamilyF at h
  split at h <;> rename_i hkk <;> cases h
  all_goals exact ⟨rfl, wordXKK_of_subop hkk⟩

/-- By family, `h_1` for family 0 to `h_16` for family F: the fields that the family's format names rebuild the word. -/
theorem encodeWord_of_decodeWord (h : decodeWord w = .ok i) : i.wf = true ∧ encodeWord i = w := by
  unfold decodeWord at h
  split at h
  case h_1 => exact decodeFamily0_ok h
  case h_2 hf | h_3 hf | h_11 hf | h_12 hf => cases h; exact ⟨rfl, wordNNN_of_family hf⟩
  case h_4 hf | h_5 hf | h_7 hf | h_8 hf | h_13 hf => cases h; exact ⟨rfl, wordXKK_of_family hf⟩
  case h_6 hf => exact (decodeFamily5_ok h).imp_right (·.trans (wordXYN_of_family hf))
  case h_9 hf => exact (decodeFamily8_ok h).imp_right (·.trans (wordXYN_of_family hf))
  case h_10 hf => exact (decodeFamily9_ok h).imp_right (·.trans (wordXYN_of_family hf))
  case h_14 hf =>
    cases h
    have hn : BitVec.ofNat 4 (nOf w).toNat = nOf w := by simp
    exact ⟨decide_eq_true (nOf w).isLt, by rw [encodeWord, hn, wordXYN_of_family hf]⟩
  case h_15 hf => exact (decodeFamilyE_ok h).imp_right (·.trans (wordXKK_of_family hf))
  case h_16 =>
    have hf : (familyOf w).toNat = 0xF := by simp only [imp_false] at *; omega
    exact (decodeFamilyF_ok h).imp_right (·.trans (wordXKK_of_family hf))

theorem decodeWord_ok_iff : decodeWord w = .ok i ↔ i.wf = true ∧ encodeWord i = w :=
  ⟨encodeWord_of_decodeWord, fun ⟨hwf, hw⟩ => hw ▸ decodeWord_encodeWord hwf⟩

end

/-- Settles O54, by the family of the word. -/
theorem encodeOfDecodeIsTheWord : Obligations.EncodeOfDecodeIsTheWord := by
  unfold Obligations.EncodeOfDecodeIsTheWord
  exact fun _ _ => encodeWord_of_decodeWord

/-- Settles O52: each word is the encoding of its instruction. -/
theorem sampleWordsDecode : Obligations.SampleWordsDecode := by
  unfold Obligations.SampleWordsDecode
  simp only [decodeWord_ok_iff]
  decide

end Sys2Proof
end

section
/-! PROOFS. The unknown words, and the rows of the opcode map as masks and matches (spec 30_encoding.md R94 to R97). A
word's family fixes the mask of the only row that it can match. -/

namespace Sys2Proof

/-! ### The unknown words, family by family -/

section
variable {w : Word} {x y : Index16} {k : Nat}

theorem decodeFamily0_unknown_iff :
    decodeFamily0 w = .error (.unknownOpcode w) ↔ w ≠ 0x00E0#16 ∧ w ≠ 0x00EE#16 := by
  unfold decodeFamily0; split_ifs <;> simp [*]

theorem decodeFamily5_unknown_iff : decodeFamily5 w x y k = .error (.unknownOpcode w) ↔ k ≠ 0x0 := by
  unfold decodeFamily5; split <;> simp_all

theorem decodeFamily8_unknown_iff (hk : k < 16) :
    decodeFamily8 w x y k = .error (.unknownOpcode w) ↔ k ∈ [0x8, 0x9, 0xA, 0xB, 0xC, 0xD, 0xF] := by
  interval_cases k <;> simp [decodeFamily8]

theorem decodeFamily9_unknown_iff : decodeFamily9 w x y k = .error (.unknownOpcode w) ↔ k ≠ 0x0 := by
  unfold decodeFamily9; split <;> simp_all

theorem decodeFamilyE_unknown_iff : decodeFamilyE w x k = .error (.unknownOpcode w) ↔ k ∉ [0x9E, 0xA1] := by
  unfold decodeFamilyE; split <;> simp_all

theorem decodeFamilyF_unknown_iff :
    decodeFamilyF w x k = .error (.unknownOpcode w) ↔
      k ∉ [0x07, 0x0A, 0x15, 0x18, 0x1E, 0x29, 0x33, 0x55, 0x65] := by
  unfold decodeFamilyF; split <;> simp_all

end

/-- Settles O56, by family, `h_1` for family 0 to `h_16` for family F: ten families decode every word of theirs. -/
theorem unknownWordsAreTheListedOnes : Obligations.UnknownWordsAreTheListedOnes := by
  unfold Obligations.UnknownWordsAreTheListedOnes
  intro w
  unfold decodeWord
  split
  case h_1 hf => simp [← BitVec.toNat_inj, hf, decodeFamily0_unknown_iff]
  case h_6 hf => simp [← BitVec.toNat_inj, hf, decodeFamily5_unknown_iff]
  case h_9 hf => simp [← BitVec.toNat_inj, hf, decodeFamily8_unknown_iff (nOf w).isLt]
  case h_10 hf => simp [← BitVec.toNat_inj, hf, decodeFamily9_unknown_iff]
  case h_15 hf => simp [← BitVec.toNat_inj, hf, decodeFamilyE_unknown_iff]
  case h_16 =>
    have hf : (familyOf w).toNat = 0xF := by simp only [imp_false] at *; omega
    simp [← BitVec.toNat_inj, hf, decodeFamilyF_unknown_iff]
  case h_2 hf | h_3 hf | h_4 hf | h_5 hf | h_7 hf | h_8 hf | h_11 hf | h_12 hf | h_13 hf | h_14 hf =>
    simp [← BitVec.toNat_inj, hf]

/-! ### An instruction's row -/

open Laws.EncodingMatchesRow in
theorem encodeWord_mask : ∀ i : Instr, encodeWord i &&& i.rowMask = i.rowMatch
  | .cls => cls | .ret => ret | .jp nnn => jp nnn | .call nnn => call nnn | .ldI nnn => ldI nnn | .jpV0 nnn => jpV0 nnn
  | .seVxKk x kk => seVxKk x kk | .sneVxKk x kk => sneVxKk x kk | .ldVxKk x kk => ldVxKk x kk
  | .addVxKk x kk => addVxKk x kk | .rnd x kk => rnd x kk | .drw x y n => drw x y n
  | .seVxVy x y => seVxVy x y | .sneVxVy x y => sneVxVy x y | .ldVxVy x y => ldVxVy x y
  | .orVxVy x y => orVxVy x y | .andVxVy x y => andVxVy x y | .xorVxVy x y => xorVxVy x y
  | .addVxVy x y => addVxVy x y | .subVxVy x y => subVxVy x y | .shrVx x y => shrVx x y
  | .subnVxVy x y => subnVxVy x y | .shlVx x y => shlVx x y | .skp x => skp x | .sknp x => sknp x
  | .ldVxDt x => ldVxDt x | .ldVxK x => ldVxK x | .ldDtVx x => ldDtVx x | .ldStVx x => ldStVx x
  | .addIVx x => addIVx x | .ldFVx x => ldFVx x | .ldBVx x => ldBVx x | .ldMemVx x => ldMemVx x
  | .ldVxMem x => ldVxMem x

theorem row_mem_opcodeRows (i : Instr) : (i.rowMask, i.rowMatch) ∈ opcodeRows := by
  cases i <;> simp [opcodeRows, Instr.rowMask, Instr.rowMatch]

theorem decodeWord_fits_row {w : Word} {i : Instr} (h : decodeWord w = .ok i) :
    (i.rowMask, i.rowMatch) ∈ opcodeRows ∧ w &&& i.rowMask = i.rowMatch := by
  obtain ⟨-, rfl⟩ := encodeWord_of_decodeWord h
  exact ⟨row_mem_opcodeRows i, encodeWord_mask i⟩

/-! ### The mask of a family -/

/-- The fixed bits that every row of a family has (R94, R95). -/
def familyMask (f : Nibble) : Word :=
  if f = 0x0#4 then 0xFFFF#16
  else if f ∈ [0x5#4, 0x8#4, 0x9#4] then 0xF00F#16
  else if f ∈ [0xE#4, 0xF#4] then 0xF0FF#16
  else 0xF000#16

theorem opcodeRows_mask : ∀ row ∈ opcodeRows, row.1 = familyMask (familyOf row.2) := by
  intro row hrow
  fin_cases hrow <;> decide

theorem opcodeRows_match_known : ∀ row ∈ opcodeRows, decodeWord row.2 ≠ .error (.unknownOpcode row.2) := by
  intro row hrow
  fin_cases hrow <;> decide

section
variable {w m : Word} {row row' : Word × Word}

theorem familyOf_mask (hm : familyOf m = 0xF#4) : familyOf (w &&& m) = familyOf w := by
  have hand : familyOf (w &&& m) = familyOf w &&& familyOf m := BitVec.extractLsb'_and
  rw [hand, hm]
  exact BitVec.and_allOnes

theorem nOf_mask (hm : nOf m = 0xF#4) : nOf (w &&& m) = nOf w := by
  have hand : nOf (w &&& m) = nOf w &&& nOf m := BitVec.extractLsb'_and
  rw [hand, hm]
  exact BitVec.and_allOnes

theorem kkOf_mask (hm : kkOf m = 0xFF#8) : kkOf (w &&& m) = kkOf w := by
  have hand : kkOf (w &&& m) = kkOf w &&& kkOf m := BitVec.extractLsb'_and
  rw [hand, hm]
  exact BitVec.and_allOnes

theorem familyOf_familyMask : ∀ f, familyOf (familyMask f) = 0xF#4 := by decide

theorem mask_of_fits (hrow : row ∈ opcodeRows) (hfit : w &&& row.1 = row.2) : row.1 = familyMask (familyOf w) := by
  have hmask : row.1 = familyMask (familyOf row.2) := opcodeRows_mask row hrow
  have hfam : familyOf row.2 = familyOf w := by rw [← hfit, familyOf_mask (by rw [hmask, familyOf_familyMask])]
  rw [hmask, hfam]

/-- The row that fits is read off the word: its family gives the mask, what the mask leaves of it is the match. -/
theorem row_unique_of_fits (hrow : row ∈ opcodeRows) (hrow' : row' ∈ opcodeRows) (hfit : w &&& row.1 = row.2)
    (hfit' : w &&& row'.1 = row'.2) : row = row' := by
  have hmask : row.1 = row'.1 := (mask_of_fits hrow hfit).trans (mask_of_fits hrow' hfit').symm
  exact Prod.ext hmask (by rw [← hfit, hmask, hfit'])

/-- Whether a word is unknown shows in the bits of its family's mask: they hold each field that the family looks at. -/
theorem unknown_mask (hm : m = familyMask (familyOf w)) (h : decodeWord w = .error (.unknownOpcode w)) :
    decodeWord (w &&& m) = .error (.unknownOpcode (w &&& m)) := by
  have hunknown := unknownWordsAreTheListedOnes
  unfold Obligations.UnknownWordsAreTheListedOnes at hunknown
  rw [hunknown, familyOf_mask (by rw [hm, familyOf_familyMask])]
  rcases (hunknown w).1 h with h0 | ⟨hf, h5⟩ | ⟨hf, h8⟩ | ⟨hf, h9⟩ | ⟨hf, hE⟩ | ⟨hf, hF⟩
  · have hall : w &&& m = w := by rw [hm, h0.1]; exact BitVec.and_allOnes
    exact .inl (by rwa [hall])
  · exact .inr (.inl ⟨hf, by rwa [nOf_mask (by rw [hm, hf]; rfl)]⟩)
  · exact .inr (.inr (.inl ⟨hf, by rwa [nOf_mask (by rw [hm, hf]; rfl)]⟩))
  · exact .inr (.inr (.inr (.inl ⟨hf, by rwa [nOf_mask (by rw [hm, hf]; rfl)]⟩)))
  · exact .inr (.inr (.inr (.inr (.inl ⟨hf, by rwa [kkOf_mask (by rw [hm, hf]; rfl)]⟩))))
  · exact .inr (.inr (.inr (.inr (.inr ⟨hf, by rwa [kkOf_mask (by rw [hm, hf]; rfl)]⟩))))

theorem known_of_fits (hrow : row ∈ opcodeRows) (hfit : w &&& row.1 = row.2) :
    decodeWord w ≠ .error (.unknownOpcode w) := by
  intro h
  have hmatch : decodeWord row.2 = .error (.unknownOpcode row.2) := hfit ▸ unknown_mask (mask_of_fits hrow hfit) h
  exact opcodeRows_match_known row hrow hmatch

end

/-- Settles O55: at most one row fits a word, and the row of the instruction that it decodes to does fit. -/
theorem decodingIsByMaskAndMatch : Obligations.DecodingIsByMaskAndMatch := by
  unfold Obligations.DecodingIsByMaskAndMatch
  intro w
  refine ⟨fun i => decodeWord_fits_row, fun row hrow hfit => ?_, fun _ hrow _ hrow' => row_unique_of_fits hrow hrow',
    fun hnone => ?_⟩
  · cases hd : decodeWord w with
    | ok i =>
      obtain ⟨hmem, hfits⟩ := decodeWord_fits_row hd
      exact ⟨i, rfl, row_unique_of_fits hmem hrow hfits hfit⟩
    | error e => exact absurd (decodeWord_error hd ▸ hd) (known_of_fits hrow hfit)
  · cases hd : decodeWord w with
    | ok i =>
      obtain ⟨hmem, hfits⟩ := decodeWord_fits_row hd
      exact absurd hfits (hnone _ hmem)
    | error e => rw [decodeWord_error hd]

end Sys2Proof
end

section
/-! PROOFS. Fault entry on a word that decodes to nothing (spec 30_encoding.md R97, 60_exceptions.md R231, R232). -/

namespace Sys2Proof.Machine

theorem runInstruction_decode_error {s : State} {w : Word} {e : DecodeError} (hf : s.fetch = some w)
    (hd : decodeWord w = .error e) : runInstruction s = .next (s.raise .unknownOpcode w) := by
  simp only [runInstruction, hf, hd]

theorem moveStep_execute_enabled {s : State} (he : s.executorEnabled = true) :
    moveStep .execute s = runInstruction s.begin := by
  obtain ⟨-, -, hrun⟩ := (executorEnabled_iff s).1 he
  exact (moveStep_running .execute hrun).trans (executorTurn_enabled he)

/-- Settles O43: the fetch succeeds and the decode fails, so the turn is fault entry. -/
theorem unknownOpcodeFaults : Obligations.UnknownOpcodeFaults := by
  unfold Obligations.UnknownOpcodeFaults
  intro s w he hf hd
  obtain ⟨-, -, hrun⟩ := (executorEnabled_iff s).1 he
  have hturn : runInstruction s.begin = .next (s.begin.raise .unknownOpcode w) := runInstruction_decode_error hf hd
  exact ⟨_, (moveStep_execute_enabled he).trans hturn, s.begin.raise_record _ _,
    (s.begin_sameBut.append (s.begin.raise_sameBut _ _)).weaken (by simp), rfl, hrun⟩

end Sys2Proof.Machine
end

section
/-! PROOFS. Control transfer and skips (spec 40_control.md R121 to R129). -/

namespace Sys2Proof.Machine

/-! ### CALL and RET -/

/-- A transfer through the call stack writes PC, SP and the entries, and nothing else. -/
theorem State.transfer_sameBut (s : State) (w : Word) (d : Fin 17) (stk : Vector Word 16) :
    SameBut [.pc, .stack] s { s with pc := w, depth := d, stack := stk } :=
  (s.pc_sameBut w).append (State.stack_sameBut _ d stk)

/-- The state that a CALL with room for an entry leaves. -/
def State.called (s : State) (target : Addr12) (h : s.depth.val < 16) : State :=
  { s with
    pc := zextAddr target
    stack := s.stack.set s.depth.val s.pc h
    depth := ⟨s.depth.val + 1, by omega⟩ }

theorem exec_call_called {s : State} (nnn : Addr12) (h : s.depth.val < 16) :
    exec (.call nnn) s = .next (s.called nnn h) := exec_call_room nnn h

theorem State.called_sameBut {s : State} (nnn : Addr12) (h : s.depth.val < 16) :
    SameBut [.pc, .stack] s (s.called nnn h) := s.transfer_sameBut _ _ _

theorem State.called_sp {s : State} (nnn : Addr12) (h : s.depth.val < 16) : (s.called nnn h).sp = s.sp + 1 := by
  rw [State.sp_eq, State.sp_eq]
  simp [State.called]

/-- The entry that CALL adds is the CALL's own address, and the others stay (R27). -/
theorem State.called_stack {s : State} (nnn : Addr12) (h : s.depth.val < 16) (j : Index16) :
    (s.called nnn h).stack[j] = if (j.val : Int) = s.sp + 1 then s.pc else s.stack[j] := by
  have hentry : (s.called nnn h).stack[j] = if s.depth.val = j.val then s.pc else s.stack[j] :=
    Vector.getElem_set h j.isLt
  have hnew : s.depth.val = j.val ↔ (j.val : Int) = s.sp + 1 := by rw [State.sp_eq]; omega
  rw [hentry]
  exact if_congr hnew rfl rfl

/-- RET with SP = j goes on 2 after the address in entry j (R122). -/
theorem exec_ret_top {s : State} {j : Index16} (h : s.depth.val = j.val + 1) :
    exec .ret s = .next { s with pc := s.stack[j] + 2#16, depth := ⟨j.val, by omega⟩ } := by
  have hlast : s.depth.val - 1 = j.val := by omega
  rw [exec_ret_held (by omega)]
  simp [hlast]

/-- RET right after a CALL goes on 2 after the CALL, with as many entries held as before it. -/
theorem exec_ret_called {s : State} (nnn : Addr12) (h : s.depth.val < 16) :
    exec .ret (s.called nnn h) = .next { s.called nnn h with pc := s.pc + 2#16, depth := s.depth } := by
  have htop : (s.called nnn h).stack[(⟨s.depth.val, h⟩ : Index16)] = s.pc := by
    rw [State.called_stack]
    exact if_pos (Int.sub_add_cancel _ _).symm
  rw [exec_ret_top (j := ⟨s.depth.val, h⟩) rfl, htop]

/-- Settles O8: RET pops the entry that the CALL pushed, the CALL's own address. -/
theorem callThenRetRestoresPc : Obligations.CallThenRetRestoresPc := by
  unfold Obligations.CallThenRetRestoresPc
  intro nnn s hsp
  have hroom : s.depth.val < 16 := by rw [State.sp_eq] at hsp; omega
  exact ⟨_, _, exec_call_called nnn hroom, exec_ret_called nnn hroom, rfl, rfl, s.transfer_sameBut _ _ _⟩

/-- Settles O5, by whether an entry is held. -/
theorem retReturnsPastTheCall : Obligations.RetReturnsPastTheCall := by
  unfold Obligations.RetReturnsPastTheCall
  refine ⟨decodeWord_encodeWord (i := .ret) rfl, fun s => ⟨fun j hsp => ?_, fun hsp => ?_⟩⟩
  · have hheld : s.depth.val = j.val + 1 := by rw [State.sp_eq] at hsp; omega
    have hlower : (j.val : Int) - 1 = s.sp - 1 := by rw [hsp]
    exact ⟨_, exec_ret_top hheld, rfl, hlower, rfl, s.transfer_sameBut _ _ _⟩
  · have hempty : s.depth.val = 0 := by rw [State.sp_eq] at hsp; omega
    exact ⟨_, exec_ret_empty hempty, s.raise_record _ _, s.raise_sameBut _ _⟩

/-- Settles O7, by whether there is room for an entry. -/
theorem callPushesItsOwnAddress : Obligations.CallPushesItsOwnAddress := by
  unfold Obligations.CallPushesItsOwnAddress
  intro nnn s
  refine ⟨decodeWord_encodeWord (i := .call nnn) rfl, fun hsp => ?_, fun hsp => ?_⟩
  · have hroom : s.depth.val < 16 := by rw [State.sp_eq] at hsp; omega
    exact ⟨_, exec_call_called nnn hroom, zextAddr_toNat nnn, State.called_sp nnn hroom,
      State.called_stack nnn hroom, State.called_sameBut nnn hroom⟩
  · have hfull : s.depth.val = 16 := by rw [State.sp_eq] at hsp; omega
    exact ⟨_, exec_call_full nnn hfull, s.raise_record _ _, s.raise_sameBut _ _⟩

/-! ### Jumps -/

/-- Settles O6: JP writes PC alone. -/
theorem jpSetsThePc : Obligations.JpSetsThePc := by
  unfold Obligations.JpSetsThePc
  intro nnn s
  exact ⟨decodeWord_encodeWord (i := .jp nnn) rfl, _, rfl, zextAddr_toNat nnn, s.pc_sameBut _⟩

/-- The greatest sum, 0xFFF + 0xFF, fits in 16 bits, so the sum does not wrap (R129). -/
theorem jpV0_target_toNat (nnn : Addr12) (b : Byte) : (zextAddr nnn + zextByte b).toNat = nnn.toNat + b.toNat := by
  have := nnn.isLt
  have := b.isLt
  rw [BitVec.toNat_add, zextAddr_toNat, zextByte_toNat]
  omega

/-- Settles O11: JP V0 writes PC alone. -/
theorem jpV0AddsExactly : Obligations.JpV0AddsExactly := by
  unfold Obligations.JpV0AddsExactly
  intro nnn s
  exact ⟨decodeWord_encodeWord (i := .jpV0 nnn) rfl, _, rfl, jpV0_target_toNat nnn _, s.pc_sameBut _⟩

/-! ### Skips -/

section
variable {i : Instr} {s : State} {c : Prop} [Decidable c]

/-- A skip on a condition moves PC by 4 where the condition holds, else by 2, and writes nothing else (R121). -/
theorem completes_of_skipIf (h : exec i s = .next (s.skipIf (decide c))) :
    Completes i s fun t => t.pc = (if c then s.pc + 4#16 else s.pc + 2#16) ∧ SameBut [.pc] s t :=
  ⟨_, h, by simp, s.pc_sameBut _⟩

theorem completes_of_skipIf_not (h : exec i s = .next (s.skipIf (decide ¬c))) :
    Completes i s fun t => t.pc = (if c then s.pc + 2#16 else s.pc + 4#16) ∧ SameBut [.pc] s t := by
  simpa only [ite_not] using completes_of_skipIf h

end

/-- Settles O9: SE skips on the equality, SNE on its negation. -/
theorem skipsOnAnImmediate : Obligations.SkipsOnAnImmediate := by
  unfold Obligations.SkipsOnAnImmediate
  intro x kk s
  exact ⟨decodeWord_encodeWord (i := .seVxKk x kk) rfl, decodeWord_encodeWord (i := .sneVxKk x kk) rfl,
    completes_of_skipIf rfl, completes_of_skipIf_not rfl⟩

/-- Settles O10: SE skips on the equality, SNE on its negation. -/
theorem skipsOnTwoRegisters : Obligations.SkipsOnTwoRegisters := by
  unfold Obligations.SkipsOnTwoRegisters
  intro x y s
  exact ⟨decodeWord_encodeWord (i := .seVxVy x y) rfl, decodeWord_encodeWord (i := .sneVxVy x y) rfl,
    completes_of_skipIf rfl, completes_of_skipIf_not rfl⟩

end Sys2Proof.Machine
end

section
/-! PROOFS. Register loads and the ALU (spec 41_alu.md R140 to R152): what the two shapes of a register write leave,
then the flags and results, then the instructions. -/

namespace Sys2Proof.Machine

/-! ### The two shapes of a register write -/

section
variable (s : State) (x : Index16) (f r : Byte)

theorem State.reg_finish_dest : (s.finish x r).reg x = r := by
  rw [State.reg_finish, if_pos rfl]

/-- A write of Vx alone advances PC and leaves the other registers and every other part. -/
theorem State.finish_frame :
    (∀ q, q ≠ x → (s.finish x r).reg q = s.reg q) ∧ (s.finish x r).pc = s.pc + 2#16 ∧
      SameBut [.v, .pc] s (s.finish x r) :=
  ⟨fun q hq => by rw [State.reg_finish, if_neg hq], rfl, s.finish_sameBut x r⟩

theorem State.reg_finishFlag_dest : (s.finishFlag x f r).reg x = r := by
  rw [State.reg_finishFlag, if_pos rfl]

/-- The flag stays in VF unless VF is the destination, which is written after it (R140). -/
theorem State.reg_finishFlag_vF {x : Index16} (hx : x ≠ vF) : (s.finishFlag x f r).reg vF = f := by
  rw [State.reg_finishFlag, if_neg hx.symm, if_pos rfl]

theorem State.reg_finishFlag_other (q : Index16) (hx : q ≠ x) (hF : q ≠ vF) :
    (s.finishFlag x f r).reg q = s.reg q := by
  rw [State.reg_finishFlag, if_neg hx, if_neg hF]

end

/-! ### Flags and results -/

theorem carryFlag_eq (a b : Byte) : carryFlag a b = if a.toNat + b.toNat > 255 then 1#8 else 0#8 :=
  if_congr decide_eq_true_iff rfl rfl

theorem notBorrowFlag_eq (a b : Byte) : notBorrowFlag a b = if a.toNat ≥ b.toNat then 1#8 else 0#8 :=
  if_congr decide_eq_true_iff rfl rfl

/-- SUBN's flag, which R150 writes with the branches the other way round. -/
theorem subnFlag_eq (a b : Byte) : subnFlag a b = if b.toNat > a.toNat then 1#8 else 0#8 := by
  rw [subnFlag, ← ite_not]
  exact if_congr Nat.not_le rfl rfl

theorem shr_toNat (a : Byte) : (a >>> 1).toNat = a.toNat / 2 := by
  rw [BitVec.toNat_ushiftRight, Nat.shiftRight_eq_div_pow, pow_one]

theorem shl_toNat (a : Byte) : (a <<< 1).toNat = 2 * a.toNat % 256 := by
  rw [BitVec.toNat_shiftLeft, Nat.shiftLeft_eq, pow_one, Nat.mul_comm]

/-- A byte masked by kk has no bit outside kk. -/
theorem masked_and_not (r kk : Byte) : r &&& kk &&& ~~~kk = 0#8 := by
  rw [BitVec.and_assoc, BitVec.and_not_self]
  exact BitVec.and_zero

/-! ### The instructions that write Vx alone -/

/-- Settles O12: LD writes Vx alone. -/
theorem ldVxKkLoadsTheImmediate : Obligations.LdVxKkLoadsTheImmediate := by
  unfold Obligations.LdVxKkLoadsTheImmediate
  intro x kk s
  exact ⟨decodeWord_encodeWord (i := .ldVxKk x kk) rfl, _, rfl, s.reg_finish_dest x kk, s.finish_frame x kk⟩

/-- Settles O13: ADD with an immediate writes Vx alone, so VF is a register like any other. -/
theorem addVxKkWrapsWithoutAFlag : Obligations.AddVxKkWrapsWithoutAFlag := by
  unfold Obligations.AddVxKkWrapsWithoutAFlag
  intro x kk s
  exact ⟨decodeWord_encodeWord (i := .addVxKk x kk) rfl, _, rfl,
    by rw [State.reg_finish_dest, sum8_toNat], s.finish_frame x _⟩

/-- Settles O14: LD writes Vx alone. -/
theorem ldVxVyCopies : Obligations.LdVxVyCopies := by
  unfold Obligations.LdVxVyCopies
  intro x y s
  exact ⟨decodeWord_encodeWord (i := .ldVxVy x y) rfl, _, rfl, s.reg_finish_dest x _, s.finish_frame x _⟩

/-- Settles O15: each of the three writes Vx alone, with the operation on bytes that works bit by bit. -/
theorem logicIsBitwiseWithoutAFlag : Obligations.LogicIsBitwiseWithoutAFlag := by
  unfold Obligations.LogicIsBitwiseWithoutAFlag
  intro x y s
  refine ⟨decodeWord_encodeWord (i := .orVxVy x y) rfl, decodeWord_encodeWord (i := .andVxVy x y) rfl,
    decodeWord_encodeWord (i := .xorVxVy x y) rfl, ?or, ?and, ?xor⟩
  case or => exact ⟨_, rfl, fun b => by rw [State.reg_finish_dest, BitVec.getLsbD_or], s.finish_frame x _⟩
  case and => exact ⟨_, rfl, fun b => by rw [State.reg_finish_dest, BitVec.getLsbD_and], s.finish_frame x _⟩
  case xor => exact ⟨_, rfl, fun b => by rw [State.reg_finish_dest, BitVec.getLsbD_xor], s.finish_frame x _⟩

/-! ### The instructions that write a flag and then Vx -/

/-- Settles O16: the carry is that of the sum of the old values, and the sum is written after it. -/
theorem addVxVySetsCarry : Obligations.AddVxVySetsCarry := by
  unfold Obligations.AddVxVySetsCarry
  intro x y s
  exact ⟨decodeWord_encodeWord (i := .addVxVy x y) rfl, _, rfl,
    by rw [State.reg_finishFlag_dest, sum8_toNat],
    fun hx => by rw [State.reg_finishFlag_vF _ _ _ hx, carryFlag_eq],
    s.reg_finishFlag_other x _ _, rfl, s.finishFlag_sameBut x _ _⟩

/-- Settles O17: the flag compares the old values, and the difference is written after it. -/
theorem subVxVySetsNotBorrow : Obligations.SubVxVySetsNotBorrow := by
  unfold Obligations.SubVxVySetsNotBorrow
  intro x y s
  exact ⟨decodeWord_encodeWord (i := .subVxVy x y) rfl, _, rfl,
    by rw [State.reg_finishFlag_dest, diff8_toNat],
    fun hx => by rw [State.reg_finishFlag_vF _ _ _ hx, notBorrowFlag_eq],
    s.reg_finishFlag_other x _ _, rfl, s.finishFlag_sameBut x _ _⟩

/-- Settles O18: the flag and the result are read off Vx, and y is not read. -/
theorem shrShiftsVxWhateverYIs : Obligations.ShrShiftsVxWhateverYIs := by
  unfold Obligations.ShrShiftsVxWhateverYIs
  intro x y s
  exact ⟨decodeWord_encodeWord (i := .shrVx x y) rfl, _, rfl,
    by rw [State.reg_finishFlag_dest, shr_toNat],
    fun hx => by rw [State.reg_finishFlag_vF _ _ _ hx, shrFlag_toNat],
    s.reg_finishFlag_other x _ _, rfl, s.finishFlag_sameBut x _ _, fun _ => rfl⟩

/-- Settles O19: the flag compares the old values strictly, and the difference is written after it. -/
theorem subnVxVyFlagsStrictlyGreater : Obligations.SubnVxVyFlagsStrictlyGreater := by
  unfold Obligations.SubnVxVyFlagsStrictlyGreater
  intro x y s
  exact ⟨decodeWord_encodeWord (i := .subnVxVy x y) rfl, _, rfl,
    by rw [State.reg_finishFlag_dest, diff8_toNat],
    fun hx => by rw [State.reg_finishFlag_vF _ _ _ hx, subnFlag_eq],
    s.reg_finishFlag_other x _ _, rfl, s.finishFlag_sameBut x _ _⟩

/-- Settles O20: the flag and the result are read off Vx, and y is not read. -/
theorem shlShiftsVxWhateverYIs : Obligations.ShlShiftsVxWhateverYIs := by
  unfold Obligations.ShlShiftsVxWhateverYIs
  intro x y s
  exact ⟨decodeWord_encodeWord (i := .shlVx x y) rfl, _, rfl,
    by rw [State.reg_finishFlag_dest, shl_toNat],
    fun hx => by rw [State.reg_finishFlag_vF _ _ _ hx, shlFlag_toNat],
    s.reg_finishFlag_other x _ _, rfl, s.finishFlag_sameBut x _ _, fun _ => rfl⟩

/-! ### The random byte -/

theorem State.draw_sameBut (s : State) : SameBut [.rnd] s s.draw.2 := by
  rw [State.draw_cases]
  exact s.rnd_sameBut _ _

/-- Settles O21: RND writes Vx alone, in the state that the draw leaves; only the mask is said of the byte drawn. -/
theorem rndIsMaskedByItsImmediate : Obligations.RndIsMaskedByItsImmediate := by
  unfold Obligations.RndIsMaskedByItsImmediate
  intro x kk s
  obtain ⟨hregs, hpc, hframe⟩ := s.draw.2.finish_frame x (s.draw.1 &&& kk)
  have hdrawV : ∀ q, s.draw.2.reg q = s.reg q := s.draw_sameBut .v (by simp)
  have hdrawPc : s.draw.2.pc = s.pc := s.draw_sameBut .pc (by simp)
  exact ⟨decodeWord_encodeWord (i := .rnd x kk) rfl, _, rfl,
    ⟨s.draw.1, State.reg_finish_dest _ x _⟩, by rw [State.reg_finish_dest, masked_and_not],
    fun q hq => (hregs q hq).trans (hdrawV q), by rw [hpc, hdrawPc],
    (s.draw_sameBut.append hframe).weaken (by simp)⟩

end Sys2Proof.Machine
end

section
/-! PROOFS. The index register, loads and stores (spec 42_index_memory.md R170 to R176): what a data fault and a store
through I leave, then the instructions. -/

namespace Sys2Proof.Machine

/-! ### Data faults and stores -/

/-- A stored byte reads back from its place in the range (R65). -/
theorem Memory.read_writeList_inside {m : Memory} {a k : Nat} {bs : List Byte} (h : m.wf = true)
    (ha : a + bs.length ≤ Config.memSize) (hk : k < bs.length) : (m.writeList a bs).read (a + k) = bs[k] := by
  rw [Memory.read_writeList _ h ha, if_pos (Nat.le_add_right a k), Nat.add_sub_cancel_left,
    List.getD_eq_getElem _ _ hk]

section
variable {i : Instr} {s : State}

/-- A data access out of range is fault entry: the record alone is written, with the lowest address out of range (R69). -/
theorem completes_of_dataOob (h : exec i s = .next (s.raise .dataOob (encodeWord i))) :
    Completes i s fun t =>
      (∃ addr : Word, addr.toNat = max s.i.toNat 4096 ∧ RecordIs t .dataOob s.pc (encodeWord i) addr) ∧
        SameBut [.record] s t :=
  ⟨_, h, ⟨lowestOob s.i.toNat, lowestOob_toNat s.i.isLt, s.raise_record _ _⟩, s.raise_sameBut _ _⟩

/-- A store through I that fits in memory: each byte at its place, and nothing else but the advance (R170). -/
theorem completes_of_store {bytes : List Byte} (hwf : s.mem.wf = true) (hfits : s.i.toNat + bytes.length ≤ 4096)
    (h : exec i s = .next { s with pc := s.pc + 2#16, mem := s.mem.writeList s.i.toNat bytes }) :
    Completes i s fun t =>
      (∀ k (hk : k < bytes.length), t.mem.read (s.i.toNat + k) = bytes[k]) ∧
      (∀ a, a < s.i.toNat ∨ s.i.toNat + bytes.length ≤ a → t.mem.read a = s.mem.read a) ∧
      t.pc = s.pc + 2#16 ∧ SameBut [.mem, .pc] s t :=
  ⟨_, h, fun _ => Memory.read_writeList_inside hwf hfits, fun _ => Memory.read_writeList_outside hwf hfits, rfl,
    (s.mem_sameBut (s.mem.writeList s.i.toNat bytes)).advance⟩

end

/-! ### The loads and stores -/

/-- Each of the three digits fits in its byte (R174). -/
theorem bcdDigits_toNat (a : Byte) {k : Nat} (hk : k < 3) :
    ((bcdDigits a)[k]'hk).toNat = [a.toNat / 100, a.toNat / 10 % 10, a.toNat % 10][k] := by
  have ha := a.isLt
  match k, hk with
  | 0, _ | 1, _ | 2, _ => exact Nat.mod_eq_of_lt (by omega)

/-- Settles O26, by the range: in it the digits are stored as one list of bytes through I. -/
theorem ldBVxStoresThreeDigits : Obligations.LdBVxStoresThreeDigits := by
  unfold Obligations.LdBVxStoresThreeDigits
  intro x s hwf
  refine ⟨decodeWord_encodeWord (i := .ldBVx x) rfl, fun h => ?_, fun h => completes_of_dataOob (exec_ldBVx_oob x h)⟩
  obtain ⟨t, ht, hbytes, houtside, hframe⟩ :=
    completes_of_store hwf (by rw [bcdDigits_length]; omega) (exec_ldBVx_ok x h)
  have hdigits : ∀ k (hk : k < 3), (t.mem.read (s.i.toNat + k)).toNat =
      [(s.reg x).toNat / 100, (s.reg x).toNat / 10 % 10, (s.reg x).toNat % 10][k] := fun k hk => by
    rw [hbytes k hk, bcdDigits_toNat _ hk]
  exact ⟨t, ht, hdigits 0 (by decide), hdigits 1 (by decide), hdigits 2 (by decide), houtside, hframe⟩

/-- Settles O27, by the range: in it the registers are stored as one list of bytes through I. -/
theorem ldMemVxStoresTheRegisters : Obligations.LdMemVxStoresTheRegisters := by
  unfold Obligations.LdMemVxStoresTheRegisters
  intro x s hwf
  refine ⟨decodeWord_encodeWord (i := .ldMemVx x) rfl, fun h => ?_,
    fun h => completes_of_dataOob (exec_ldMemVx_oob x h)⟩
  have hlen : (s.regsTo x).length = x.val + 1 := s.regsTo_length x
  obtain ⟨t, ht, hbytes, houtside, hframe⟩ := completes_of_store hwf (by omega) (exec_ldMemVx_ok x h)
  refine ⟨t, ht, fun j hj => ?_, fun a ha => houtside a (by omega), hframe⟩
  have hstored : j.val < (s.regsTo x).length := by rw [hlen]; exact Nat.lt_succ_of_le hj
  rw [hbytes j.val hstored, State.regsTo_getElem]

/-- Settles O28, by the range: the register file is loaded whole, and memory is only read. -/
theorem ldVxMemLoadsTheRegisters : Obligations.LdVxMemLoadsTheRegisters := by
  unfold Obligations.LdVxMemLoadsTheRegisters
  intro x s
  refine ⟨decodeWord_encodeWord (i := .ldVxMem x) rfl, fun h => ?_,
    fun h => completes_of_dataOob (exec_ldVxMem_oob x h)⟩
  exact ⟨_, exec_ldVxMem_ok x h, fun j hj => (s.reg_loadedRegs x j).trans (if_pos hj),
    fun j hj => (s.reg_loadedRegs x j).trans (if_neg (Fin.not_le.2 hj)), rfl, (s.v_sameBut _).advance⟩

/-! ### The index register -/

/-- Settles O23: LD writes I alone. -/
theorem ldILoadsTheAddress : Obligations.LdILoadsTheAddress := by
  unfold Obligations.LdILoadsTheAddress
  intro nnn s
  exact ⟨decodeWord_encodeWord (i := .ldI nnn) rfl, _, rfl, zextAddr_toNat nnn, rfl, (s.i_sameBut _).advance⟩

/-- Settles O24: ADD writes I alone, so VF is a register like any other. -/
theorem addIVxWrapsWithoutAFlag : Obligations.AddIVxWrapsWithoutAFlag := by
  unfold Obligations.AddIVxWrapsWithoutAFlag
  intro x s
  have hsum : (s.i + zextByte (s.reg x)).toNat = (s.i.toNat + (s.reg x).toNat) % 65536 := by
    rw [BitVec.toNat_add, zextByte_toNat]
  exact ⟨decodeWord_encodeWord (i := .addIVx x) rfl, _, rfl, hsum, rfl, (s.i_sameBut _).advance⟩

/-- Settles O25: LD writes I alone, and 5 × 255 fits in it. -/
theorem ldFVxPointsAtTheGlyph : Obligations.LdFVxPointsAtTheGlyph := by
  unfold Obligations.LdFVxPointsAtTheGlyph
  intro x s
  exact ⟨decodeWord_encodeWord (i := .ldFVx x) rfl, _, rfl, glyphAddr_toNat _, rfl, (s.i_sameBut _).advance⟩

end Sys2Proof.Machine
end

section
/-! PROOFS. The display (spec 43_display.md R190 to R194): what one draw does to the cells and to VF, row by row and
pixel by pixel, then the instructions. -/

namespace Sys2Proof.Machine

/-! ### Draws that flip a set of cells -/

/-- The draw from `k` to `k'` flips the cells of `P` and no other, each once, and records whether one of them
was 1 (R190). -/
structure Canvas.Flips (P : Fin 64 → Fin 32 → Prop) (k k' : Canvas) : Prop where
  flipped : ∀ c r, P c r → k'.disp.cell c r = !k.disp.cell c r
  kept : ∀ c r, ¬P c r → k'.disp.cell c r = k.disp.cell c r
  collide : k'.collide = true ↔ k.collide = true ∨ ∃ c r, P c r ∧ k.disp.cell c r = true

section
variable {P Q R : Fin 64 → Fin 32 → Prop} {k k' k'' : Canvas}

theorem Canvas.Flips.of_empty (hP : ∀ c r, ¬P c r) : Flips P k k where
  flipped c r h := absurd h (hP c r)
  kept _ _ _ := rfl
  collide := by simp [hP]

/-- Two draws after each other, with no cell in both: the second finds its cells as the first found them. -/
theorem Canvas.Flips.trans (h : Flips P k k') (h' : Flips Q k' k'') (hdisj : ∀ c r, P c r → ¬Q c r)
    (hR : ∀ c r, R c r ↔ P c r ∨ Q c r) : Flips R k k'' where
  flipped c r hr := by
    rcases (hR c r).1 hr with hp | hq
    · rw [h'.kept c r (hdisj c r hp), h.flipped c r hp]
    · rw [h'.flipped c r hq, h.kept c r fun hp => hdisj c r hp hq]
  kept c r hr := by
    rw [hR, not_or] at hr
    rw [h'.kept c r hr.2, h.kept c r hr.1]
  collide := by
    have hQ : ∀ c r, Q c r ∧ k'.disp.cell c r = true ↔ Q c r ∧ k.disp.cell c r = true := fun c r =>
      and_congr_right fun hq => by rw [h.kept c r fun hp => hdisj c r hp hq]
    simp only [h'.collide, h.collide, hQ, hR, or_and_right, exists_or, or_assoc]

end

/-! ### The cells of a sprite -/

/-- The cells on which the first `cols` pixels of a row of a sprite set a bit. -/
def PixelsSet (x y : Nat) (row : Byte) (cols : Nat) (c : Fin 64) (r : Fin 32) : Prop :=
  ∃ c' < cols, spriteBit row c' = true ∧ c.val = (x + c') % 64 ∧ r.val = y % 32

/-- The cells on which the `n` rows at address `a` set a bit: `SpriteSets` with every operand a number. -/
def RowsSet (m : Memory) (a x y n : Nat) (c : Fin 64) (r : Fin 32) : Prop :=
  ∃ c' r', c' < 8 ∧ r' < n ∧ (m.read (a + r')).getLsbD (7 - c') = true ∧
    c.val = (x + c') % 64 ∧ r.val = (y + r') % 32

theorem pixelsSet_succ (x y : Nat) (row : Byte) (cols : Nat) (c : Fin 64) (r : Fin 32) :
    PixelsSet x y row (cols + 1) c r ↔
      PixelsSet x y row cols c r ∨ spriteBit row cols = true ∧ c.val = (x + cols) % 64 ∧ r.val = y % 32 := by
  simp only [PixelsSet, Nat.lt_succ_iff_lt_or_eq, or_and_right, exists_or, exists_eq_left]

theorem rowsSet_succ (m : Memory) (a x y n : Nat) (c : Fin 64) (r : Fin 32) :
    RowsSet m a x y (n + 1) c r ↔ PixelsSet x y (m.read a) 8 c r ∨ RowsSet m (a + 1) x (y + 1) n c r := by
  constructor
  · rintro ⟨c', r', hc', hr', hbit, hc, hr⟩
    cases r' with
    | zero => exact .inl ⟨c', hc', hbit, hc, hr⟩
    | succ r' => exact .inr ⟨c', r', hc', by omega, by rwa [Nat.add_right_comm], hc, by omega⟩
  · rintro (⟨c', hc', hbit, hc, hr⟩ | ⟨c', r', hc', hr', hbit, hc, hr⟩)
    · exact ⟨c', 0, hc', by omega, hbit, hc, hr⟩
    · exact ⟨c', r' + 1, hc', by omega, by rwa [← Nat.add_assoc, Nat.add_right_comm], hc, by omega⟩

/-! ### Pixels, rows and sprites -/

theorem Canvas.drawPixel_flips (k : Canvas) (x y : Nat) (bit : Bool) :
    Flips (fun c r => bit = true ∧ c.val = x % 64 ∧ r.val = y % 32) k (k.drawPixel x y bit) where
  flipped c r h := by
    obtain ⟨hbit, hc, hr⟩ := h
    rw [Canvas.drawPixel_cell, if_pos ⟨hbit, Fin.ext hc, Fin.ext hr⟩]
  kept c r h := by
    rw [Canvas.drawPixel_cell, if_neg]
    rintro ⟨hbit, rfl, rfl⟩
    exact h ⟨hbit, rfl, rfl⟩
  collide := by
    have hcell (c : Fin 64) (r : Fin 32) :
        c.val = x % 64 ∧ r.val = y % 32 ↔ c = Fin.ofNat 64 x ∧ r = Fin.ofNat 32 y := by
      rw [Fin.ext_iff, Fin.ext_iff]; rfl
    simp [Canvas.drawPixel_collide, hcell, and_assoc]

/-- Eight columns are fewer than 64, so no two pixels of a row fall on one cell. -/
theorem Canvas.drawCols_flips (k : Canvas) (x y : Nat) (row : Byte) {cols : Nat} (h : cols ≤ 8) :
    Flips (PixelsSet x y row cols) k (k.drawCols x y row cols) := by
  induction cols with
  | zero => exact .of_empty fun _ _ ⟨_, hlt, _⟩ => Nat.not_lt_zero _ hlt
  | succ cols ih =>
    refine (ih (by omega)).trans (Canvas.drawPixel_flips _ _ _ _) ?_ (pixelsSet_succ x y row cols)
    rintro c r ⟨c', hlt, -, hc, -⟩ ⟨-, hc', -⟩
    omega

theorem Memory.readList_succ (m : Memory) (a n : Nat) : m.readList a (n + 1) = m.read a :: m.readList (a + 1) n := by
  simp [Memory.readList, List.range_succ_eq_map, Nat.add_assoc, Nat.add_comm 1]

/-- At most 32 rows: no two of them fall on one row of the display. -/
theorem Canvas.drawRows_flips (k : Canvas) (m : Memory) (a x y : Nat) {n : Nat} (h : n ≤ 32) :
    Flips (RowsSet m a x y n) k (k.drawRows x y (m.readList a n)) := by
  induction n generalizing k a y with
  | zero => exact .of_empty fun _ _ ⟨_, _, _, hlt, _⟩ => Nat.not_lt_zero _ hlt
  | succ n ih =>
    rw [Memory.readList_succ, Canvas.drawRows_cons]
    refine (k.drawCols_flips x y (m.read a) le_rfl).trans (ih _ (a + 1) (y + 1) (by omega)) ?_ (rowsSet_succ m a x y n)
    rintro c r ⟨_, -, -, -, hr⟩ ⟨_, r', -, hlt, -, -, hr'⟩
    omega

/-! ### A draw through I -/

/-- The state after a draw of the n-row sprite at I. -/
def State.drawnAtI (s : State) (x y : Index16) (n : Nat) : State := s.drawn x y (s.mem.readList s.i.toNat n)

/-- A draw that reads no memory out of range, the one of no row too, is that of the rows at I. -/
theorem exec_drw_drawnAtI {s : State} (x y : Index16) {n : Nat} (h : n = 0 ∨ s.i.toNat + n ≤ 4096) :
    exec (.drw x y n) s = .next (s.drawnAtI x y n) := by
  cases n with
  | zero => exact exec_drw_zero s x y
  | succ n => exact exec_drw_ok x y (by omega) (by omega)

theorem exec_drw_next (s : State) (x y : Index16) (n : Nat) : ∃ t, exec (.drw x y n) s = .next t := by
  by_cases h : n = 0 ∨ s.i.toNat + n ≤ 4096
  · exact ⟨_, exec_drw_drawnAtI x y h⟩
  · exact ⟨_, exec_drw_oob x y (by omega) (by omega)⟩

theorem Byte.ofFlag_eq_one_iff (b : Bool) : Byte.ofFlag b = 0x01#8 ↔ b = true := by
  cases b <;> decide

theorem Byte.ofFlag_eq_zero_iff (b : Bool) : Byte.ofFlag b = 0x00#8 ↔ ¬b = true := by
  cases b <;> decide

section
variable (s : State) (x y : Index16) {n : Nat}

theorem State.reg_drawnAtI_other {r : Index16} (hr : r ≠ vF) : (s.drawnAtI x y n).reg r = s.reg r := by
  rw [State.drawnAtI, State.reg_drawn, if_neg hr]

/-- The sprite depends on I, memory and the two registers, which a draw leaves but for VF. -/
theorem State.spriteSets_drawnAtI {x y : Index16} (hx : x ≠ vF) (hy : y ≠ vF) :
    SpriteSets (s.drawnAtI x y n) x y n = SpriteSets s x y n := by
  unfold SpriteSets
  rw [State.reg_drawnAtI_other _ _ _ hx, State.reg_drawnAtI_other _ _ _ hy]
  rfl

variable (hn : n < 16)
include hn

/-- The draw of the rows at I flips the cells under set bits of the sprite (R193). -/
theorem State.drawnAtI_flips : Canvas.Flips (SpriteSets s x y n) ⟨s.disp, false⟩
    (Canvas.drawRows ⟨s.disp, false⟩ (s.reg x).toNat (s.reg y).toNat (s.mem.readList s.i.toNat n)) :=
  Canvas.drawRows_flips _ _ _ _ _ (by omega)

variable {c : Fin 64} {r : Fin 32}

theorem State.cell_drawnAtI_of_set (h : SpriteSets s x y n c r) :
    (s.drawnAtI x y n).disp.cell c r = !s.disp.cell c r := (s.drawnAtI_flips x y hn).flipped c r h

theorem State.cell_drawnAtI_of_not_set (h : ¬SpriteSets s x y n c r) :
    (s.drawnAtI x y n).disp.cell c r = s.disp.cell c r := (s.drawnAtI_flips x y hn).kept c r h

theorem State.vF_drawnAtI_eq_one_iff :
    (s.drawnAtI x y n).reg vF = 0x01#8 ↔ ∃ c r, SpriteSets s x y n c r ∧ s.disp.cell c r = true := by
  rw [State.drawnAtI, State.reg_drawn, if_pos rfl, Byte.ofFlag_eq_one_iff, (s.drawnAtI_flips x y hn).collide]
  simp

theorem State.vF_drawnAtI_eq_zero_iff :
    (s.drawnAtI x y n).reg vF = 0x00#8 ↔ ¬∃ c r, SpriteSets s x y n c r ∧ s.disp.cell c r = true := by
  rw [State.drawnAtI, State.reg_drawn, if_pos rfl, Byte.ofFlag_eq_zero_iff, (s.drawnAtI_flips x y hn).collide]
  simp

theorem State.cell_drawnAtI_ne_iff :
    (s.drawnAtI x y n).disp.cell c r ≠ s.disp.cell c r ↔ SpriteSets s x y n c r := by
  by_cases h : SpriteSets s x y n c r
  · simp [s.cell_drawnAtI_of_set x y hn h, h]
  · simp [s.cell_drawnAtI_of_not_set x y hn h, h]

section
variable {x y : Index16} (hx : x ≠ vF) (hy : y ≠ vF)
include hx hy

/-- The second draw flips the cells of the first back (R194). -/
theorem State.cell_drawnAtI_twice : ((s.drawnAtI x y n).drawnAtI x y n).disp.cell c r = s.disp.cell c r := by
  have hsets := s.spriteSets_drawnAtI (n := n) hx hy
  by_cases h : SpriteSets s x y n c r
  · rw [State.cell_drawnAtI_of_set _ _ _ hn (by rwa [hsets]), s.cell_drawnAtI_of_set x y hn h, Bool.not_not]
  · rw [State.cell_drawnAtI_of_not_set _ _ _ hn (by rwa [hsets]), s.cell_drawnAtI_of_not_set x y hn h]

/-- The second draw collides where the first flipped a 0. -/
theorem State.vF_drawnAtI_twice_eq_one_iff : ((s.drawnAtI x y n).drawnAtI x y n).reg vF = 0x01#8 ↔
    ∃ c r, SpriteSets s x y n c r ∧ s.disp.cell c r = false := by
  rw [State.vF_drawnAtI_eq_one_iff _ _ _ hn, s.spriteSets_drawnAtI hx hy]
  refine exists_congr fun c => exists_congr fun r => and_congr_right fun h => ?_
  rw [s.cell_drawnAtI_of_set x y hn h, Bool.not_eq_true']

end

end

/-! ### The instructions -/

/-- Settles O30: CLS writes the display alone. -/
theorem clsClearsTheDisplay : Obligations.ClsClearsTheDisplay := by
  unfold Obligations.ClsClearsTheDisplay
  exact ⟨decodeWord_encodeWord (i := .cls) rfl,
    fun s => ⟨_, rfl, Display.cell_clear, rfl, (s.disp_sameBut _).advance⟩⟩

/-- Settles O31, by the rows and their range: in it the draw flips each cell of the sprite once. -/
theorem drwFlipsTheCellsUnderTheSprite : Obligations.DrwFlipsTheCellsUnderTheSprite := by
  unfold Obligations.DrwFlipsTheCellsUnderTheSprite
  intro x y n s hn
  refine ⟨decodeWord_encodeWord (i := .drw x y n) (decide_eq_true hn), ?noRow, ?inside, ?outside⟩
  case noRow =>
    rintro rfl
    exact ⟨_, exec_drw_zero s x y, s.reg_finish_dest vF 0x00#8, s.finish_frame vF 0x00#8⟩
  case inside =>
    intro hpos hrange
    exact ⟨s.drawnAtI x y n, exec_drw_drawnAtI x y (.inr (by omega)),
      fun _ _ => s.cell_drawnAtI_of_set x y hn, fun _ _ => s.cell_drawnAtI_of_not_set x y hn,
      (s.vF_drawnAtI_eq_one_iff x y hn).2, (s.vF_drawnAtI_eq_zero_iff x y hn).2,
      fun _ => s.reg_drawnAtI_other x y, rfl, s.drawn_sameBut x y _⟩
  case outside => exact fun hpos hrange => completes_of_dataOob (exec_drw_oob x y hpos (by omega))

/-- Settles O32: the first draw leaves the sprite as it was, so the second flips the same cells; and CLS leaves every
cell 0 in every state. -/
theorem drawingTwiceRestoresTheDisplay : Obligations.DrawingTwiceRestoresTheDisplay := by
  unfold Obligations.DrawingTwiceRestoresTheDisplay
  constructor
  · intro x y n s hx hy hn hrange
    exact ⟨s.drawnAtI x y n, (s.drawnAtI x y n).drawnAtI x y n, exec_drw_drawnAtI x y hrange,
      exec_drw_drawnAtI x y hrange, fun _ _ => s.cell_drawnAtI_twice hn hx hy, s.vF_drawnAtI_eq_one_iff x y hn,
      s.vF_drawnAtI_twice_eq_one_iff hn hx hy, fun _ _ => s.cell_drawnAtI_ne_iff x y hn⟩
  · intro x y n s
    obtain ⟨u, hu⟩ := exec_drw_next ({ s with disp := Display.clear }).advance x y n
    exact ⟨_, u, _, rfl, hu, rfl, Display.cell_clear⟩

end Sys2Proof.Machine
end

section
/-! PROOFS. Keypad and timers (spec 44_keypad_timers.md R210 to R217, 60_exceptions.md R255): what a bad key number and
a waiting core answer, then the instructions and the key press. -/

namespace Sys2Proof.Machine

/-! ### Key numbers and the wait -/

section
variable {i : Instr} {s : State}

/-- A key number of 16 or more is fault entry: the record alone is written, with no address (R210). -/
theorem completes_of_keyIndex (h : exec i s = .next (s.raise .keyIndex (encodeWord i))) :
    Completes i s fun t => RecordIs t .keyIndex s.pc (encodeWord i) 0x0000#16 ∧ SameBut [.record] s t :=
  ⟨_, h, s.raise_record _ _, s.raise_sameBut _ _⟩

theorem State.executorEnabled_waiting {x : Index16} (h : s.wait = some x) : s.executorEnabled = false := by
  simp [State.executorEnabled, h]

theorem moveStep_keyPress (k : Index16) (h : s.stopped = false) : moveStep (.keyPress k) s = .next (s.keyPress k) :=
  moveStep_running (.keyPress k) h

end

theorem keyByte_toNat (k : Index16) : (keyByte k).toNat = k.val := Nat.mod_eq_of_lt (by omega)

/-! ### The instructions -/

/-- Settles O33, by whether V[x] is a key number: SKP skips on the flag, SKNP on its negation. -/
theorem skipsOnAKey : Obligations.SkipsOnAKey := by
  unfold Obligations.SkipsOnAKey
  intro x s
  refine ⟨decodeWord_encodeWord (i := .skp x) rfl, decodeWord_encodeWord (i := .sknp x) rfl, fun k hk => ⟨?_, ?_⟩,
    fun hbad => ⟨completes_of_keyIndex (exec_skp_bad hbad), completes_of_keyIndex (exec_sknp_bad hbad)⟩⟩
  · exact completes_of_skipIf (by rw [exec_skp_key hk, Bool.decide_eq_true])
  · exact completes_of_skipIf_not (by rw [exec_sknp_key hk, decide_not, Bool.decide_eq_true])

/-- Settles O34: LD writes Vx alone. -/
theorem ldVxDtReadsTheDelayTimer : Obligations.LdVxDtReadsTheDelayTimer := by
  unfold Obligations.LdVxDtReadsTheDelayTimer
  intro x s
  exact ⟨decodeWord_encodeWord (i := .ldVxDt x) rfl, _, rfl, s.reg_finish_dest x s.dt, s.finish_frame x s.dt⟩

/-- Settles O35: each LD writes its timer alone. -/
theorem timersAreSetFromVx : Obligations.TimersAreSetFromVx := by
  unfold Obligations.TimersAreSetFromVx
  intro x s
  exact ⟨decodeWord_encodeWord (i := .ldDtVx x) rfl, decodeWord_encodeWord (i := .ldStVx x) rfl,
    ⟨_, rfl, rfl, rfl, (s.dt_sameBut _).advance⟩, ⟨_, rfl, rfl, rfl, (s.st_sameBut _).advance⟩⟩

/-- Settles O36: LD writes WAIT alone, which disables the executor and which no tick writes. -/
theorem ldVxKEntersTheWait : Obligations.LdVxKEntersTheWait := by
  unfold Obligations.LdVxKEntersTheWait
  intro x s
  exact ⟨decodeWord_encodeWord (i := .ldVxK x) rfl, _, rfl, rfl, s.wait_sameBut _, State.executorEnabled_waiting rfl,
    State.tick_wait _⟩

/-! ### The key press -/

/-- Settles O37, by whether the core waits: a press that is not dropped writes Vx as an instruction does (`finish`), and
ends the wait. -/
theorem keyPressCompletesTheWait : Obligations.KeyPressCompletesTheWait := by
  unfold Obligations.KeyPressCompletesTheWait
  intro k s hrun
  rw [moveStep_keyPress k hrun]
  refine ⟨fun x hwait hhalt => ?_, fun hdrop => by rw [State.keyPress_dropped k hdrop]⟩
  have hpress : s.keyPress k = { s.finish x (keyByte k) with wait := none } := State.keyPress_waiting k hwait hhalt
  have hdest : (s.finish x (keyByte k)).reg x = keyByte k := s.reg_finish_dest x _
  obtain ⟨hregs, hpc, hframe⟩ := s.finish_frame x (keyByte k)
  exact ⟨_, congrArg _ hpress, (congrArg _ hdest).trans (keyByte_toNat k), hregs, hpc, rfl,
    hframe.append (State.wait_sameBut _ none)⟩

end Sys2Proof.Machine
end

section
/-! PROOFS. Faults, the fault record and what each agent's step may touch (spec 60_exceptions.md R231 to R236, R263): an
instruction enters the fault of its own check or writes its parts, and every claim is a consequence for one step. -/

namespace Sys2Proof.Machine

/-! ### An instruction's own fault -/

section
variable {i : Instr} {s t : State} {c e : Cause}

/-- An instruction's own check that fails grants the condition it tests, and the cause it names. -/
theorem instrFault_some_of_ite {p : Prop} [Decidable p] (hi : instrFault i s = if p then some e else none)
    (h : instrFault i s = some c) : p ∧ e = c := by
  rw [hi, Option.ite_none_right_eq_some] at h
  exact h.imp_right Option.some.inj

/-- An instruction whose own check fails is fault entry, with a cause other than that of the fetch. -/
theorem exec_of_instrFault (h : instrFault i s = some c) :
    exec i s = .next (s.raise c (encodeWord i)) ∧ c ≠ .fetchOob := by
  cases i with
  | ret =>
    obtain ⟨hempty, rfl⟩ := instrFault_some_of_ite rfl h
    exact ⟨exec_ret_empty hempty, by decide⟩
  | call nnn =>
    obtain ⟨hfull, rfl⟩ := instrFault_some_of_ite rfl h
    exact ⟨exec_call_full nnn hfull, by decide⟩
  | drw x y n =>
    obtain ⟨⟨hrows, hrange⟩, rfl⟩ := instrFault_some_of_ite rfl h
    exact ⟨exec_drw_oob x y hrows (by omega), by decide⟩
  | ldBVx x =>
    obtain ⟨hrange, rfl⟩ := instrFault_some_of_ite rfl h
    exact ⟨exec_ldBVx_oob x hrange, by decide⟩
  | ldMemVx x =>
    obtain ⟨hrange, rfl⟩ := instrFault_some_of_ite rfl h
    exact ⟨exec_ldMemVx_oob x hrange, by decide⟩
  | ldVxMem x =>
    obtain ⟨hrange, rfl⟩ := instrFault_some_of_ite rfl h
    exact ⟨exec_ldVxMem_oob x hrange, by decide⟩
  | skp x =>
    obtain ⟨hkey, rfl⟩ := instrFault_some_of_ite rfl h
    exact ⟨exec_skp_bad hkey, by decide⟩
  | sknp x =>
    obtain ⟨hkey, rfl⟩ := instrFault_some_of_ite rfl h
    exact ⟨exec_sknp_bad hkey, by decide⟩
  | _ => cases h

theorem faultWord_of_ne_fetchOob (hc : c ≠ .fetchOob) (w : Word) : faultWord c w = w := by
  cases c with
  | fetchOob => exact absurd rfl hc
  | _ => rfl

theorem State.faultAddr_toNat (s : State) (hc : c ≠ .fetchOob) :
    (s.faultAddr c).toNat = if c = .dataOob then max s.i.toNat 4096 else 0 := by
  cases c with
  | fetchOob => exact absurd rfl hc
  | dataOob => exact lowestOob_toNat s.i.isLt
  | _ => rfl

/-- Settles O45: the instruction is fault entry, which writes the record and nothing else. -/
theorem faultsArePrecise : Obligations.FaultsArePrecise := by
  unfold Obligations.FaultsArePrecise
  intro i s c h
  obtain ⟨hexec, hc⟩ := exec_of_instrFault h
  have hrecord : RecordIs (s.raise c (encodeWord i)) c s.pc (encodeWord i) (s.faultAddr c) := by
    simpa only [faultWord_of_ne_fetchOob hc] using s.raise_record c (encodeWord i)
  exact ⟨_, hexec, ⟨s.faultAddr c, s.faultAddr_toNat hc, hrecord⟩, s.raise_sameBut _ _⟩

/-- An instruction enters the fault of its own check, or else writes only its parts (R38). -/
theorem exec_next (h : exec i s = .next t) :
    (∃ c, instrFault i s = some c ∧ t = s.raise c (encodeWord i)) ∨ SameBut (instrWrites i) s t := by
  cases hf : instrFault i s with
  | some c =>
    have hexec : exec i s = .next (s.raise c (encodeWord i)) := (exec_of_instrFault hf).1
    cases hexec.symm.trans h
    exact .inl ⟨c, rfl, rfl⟩
  | none =>
    have hwrites := instructionsWriteOnlyTheirParts
    unfold Obligations.InstructionsWriteOnlyTheirParts at hwrites
    obtain ⟨t', hexec, hsame⟩ := hwrites i s hf
    cases hexec.symm.trans h
    exact .inr hsame

theorem record_not_mem_instrWrites (i : Instr) : Part.record ∉ instrWrites i := by
  cases i <;> simp [instrWrites]

end

/-! ### The record is explained -/

section
variable {s t : State}

theorem State.RecordExplained.of_running (h : s.halt = false) : s.RecordExplained :=
  fun hh => by cases h.symm.trans hh

/-- The record is explained without these parts, so every write of them keeps it explained. -/
theorem State.RecordExplained.frame (h : s.RecordExplained) {keys : Vector Bool 16} {stopped : Bool}
    {sched : List Move} : State.RecordExplained { s with keys := keys, stopped := stopped, sched := sched } := h

section
variable {w : Word} (hs : s.started = true)
include hs

theorem State.RecordExplained.raise_fetchOob (hf : s.fetch = none) : (s.raise .fetchOob w).RecordExplained :=
  fun _ => ⟨hs, rfl, .inl ⟨rfl, State.fetch_none hf, rfl, lowestOob_toNat s.pc.isLt⟩⟩

theorem State.RecordExplained.raise_unknownOpcode {e : DecodeError} (hf : s.fetch = some w)
    (hd : decodeWord w = .error e) : (s.raise .unknownOpcode w).RecordExplained :=
  fun _ => ⟨hs, rfl, .inr (.inl ⟨rfl, hf, decodeWord_error hd ▸ hd, rfl⟩)⟩

/-- The instruction's encoding is the word fetched, and fault entry keeps all that its check looks at. -/
theorem State.RecordExplained.raise_own {i : Instr} {c : Cause} (hf : s.fetch = some w)
    (hd : decodeWord w = .ok i) (h : instrFault i s = some c) : (s.raise c (encodeWord i)).RecordExplained := by
  obtain ⟨-, rfl⟩ := encodeWord_of_decodeWord hd
  obtain ⟨-, hc⟩ := exec_of_instrFault h
  have hword : (s.raise c (encodeWord i)).fword = encodeWord i := faultWord_of_ne_fetchOob hc _
  exact fun _ => ⟨hs, rfl, .inr (.inr ⟨i, hf.trans (congrArg some hword.symm), (congrArg decodeWord hword).trans hd, h,
    s.faultAddr_toNat hc⟩)⟩

/-- In R234's order: a fault of the fetch, of the decode, of the instruction's own check, or none. -/
theorem State.RecordExplained.runInstruction (hh : s.halt = false) (ht : runInstruction s = .next t) :
    t.RecordExplained := by
  rcases runInstruction_cases s with ⟨hf, hrun⟩ | ⟨w, e, hf, hd, hrun⟩ | ⟨w, i, hf, hd, hrun⟩
  · cases hrun.symm.trans ht
    exact .raise_fetchOob hs hf
  · cases hrun.symm.trans ht
    exact .raise_unknownOpcode hs hf hd
  · rcases exec_next (hrun.symm.trans ht) with ⟨c, hown, rfl⟩ | hsame
    · exact .raise_own hs hf hd hown
    · obtain ⟨hhalt, -⟩ := hsame .record (record_not_mem_instrWrites i)
      exact .of_running (hhalt.trans hh)

end

theorem State.RecordExplained.executorTurn (h : s.RecordExplained) (ht : executorTurn s = .next t) :
    t.RecordExplained := by
  obtain ⟨hh, ⟨-, rfl⟩ | ⟨-, hrun⟩⟩ := executorTurn_next ht
  · exact h
  · exact .runInstruction (s := s.begin) rfl hh hrun

theorem State.tick_halted (h : s.halt = true) : s.tick = s := if_pos h

theorem State.RecordExplained.tick (h : s.RecordExplained) : s.tick.RecordExplained := by
  cases hh : s.halt with
  | true => rwa [State.tick_halted hh]
  | false => exact .of_running (s.tick_halt.trans hh)

theorem State.RecordExplained.keyPress (h : s.RecordExplained) (k : Index16) : (s.keyPress k).RecordExplained := by
  rcases keyPress_cases s k with ⟨x, -, hh, hkey⟩ | ⟨-, hkey⟩
  · rw [hkey]; exact .of_running hh
  · rwa [hkey]

/-- A load comes before the first executor step, and so before every fault. -/
theorem State.RecordExplained.load {bytes : List Byte} (h : s.RecordExplained) (ht : s.load bytes = .next t) :
    t.RecordExplained := by
  obtain ⟨-, hns, rfl⟩ := load_next ht
  intro hh
  obtain ⟨hs, -⟩ := h hh
  cases hs.symm.trans hns

theorem State.RecordExplained.moveStep {m : Move} (h : s.RecordExplained) (ht : moveStep m s = .next t) :
    t.RecordExplained := by
  rw [moveStep_running m (moveStep_next_running ht)] at ht
  cases m with
  | execute => exact h.executorTurn ht
  | tick => cases ht; exact h.tick
  | keySet k b => cases ht; exact h.frame
  | keyPress k => cases ht; exact h.keyPress k
  | render => cases ht; exact h
  | reset => cases ht; exact .of_running rfl
  | load bytes => exact h.load ht
  | stop => cases ht; exact h.frame

end

/-- Settles O59, by the agent that moves: only the executor enters a fault, and in a halted state no step writes what
the record speaks of. The invariants are not needed. -/
theorem everyStepKeepsTheRecordExplained : Obligations.EveryStepKeepsTheRecordExplained := by
  unfold Obligations.EveryStepKeepsTheRecordExplained
  intro s t _ h ht
  exact h.frame.moveStep ((step_eq s).symm.trans ht)

/-! ### What each agent's step touches -/

theorem State.keys_sameBut (s : State) (keys : Vector Bool 16) : SameBut [.keys] s { s with keys := keys } := by
  intro p hp
  cases p <;> simp_all [Part.same, State.reg]

theorem State.stop_sameBut (s : State) : SameBut [.run] s s.stop := by
  intro p hp
  cases p <;> simp_all [Part.same, State.key, State.reg]

theorem State.tick_sameBut (s : State) : SameBut [.dt, .st] s s.tick := by
  rw [tick_eq]
  exact (s.dt_sameBut (if s.halt then s.dt else countDown s.dt)).append (State.st_sameBut _ _)

theorem State.keyPress_sameBut (s : State) (k : Index16) : SameBut [.v, .pc, .wait] s (s.keyPress k) := by
  rcases keyPress_cases s k with ⟨x, -, -, hkey⟩ | ⟨-, hkey⟩
  · rw [hkey]
    exact (s.finish_sameBut x (keyByte k)).append (State.wait_sameBut _ none)
  · rw [hkey]
    exact .refl _ s

/-- The reset move keeps only the environment's parts, the schedule and the random source. -/
theorem State.applyReset_sameBut (s : State) : SameBut (.run :: coreParts) s s.applyReset := by
  intro p hp
  cases p <;> simp_all [Part.same, coreParts]

section
variable {s t : State}

theorem instrWrites_subset_touches (i : Instr) : instrWrites i ⊆ Move.execute.touches := by
  cases i <;> simp [instrWrites, Move.touches]

theorem runInstruction_sameBut (ht : runInstruction s = .next t) : SameBut Move.execute.touches s t := by
  have hfault (c : Cause) (w : Word) : SameBut Move.execute.touches s (s.raise c w) :=
    (s.raise_sameBut c w).weaken (by simp [Move.touches])
  rcases runInstruction_cases s with ⟨-, hrun⟩ | ⟨w, e, -, -, hrun⟩ | ⟨w, i, -, -, hrun⟩
  · cases hrun.symm.trans ht
    exact hfault _ _
  · cases hrun.symm.trans ht
    exact hfault _ _
  · rcases exec_next (hrun.symm.trans ht) with ⟨c, -, rfl⟩ | hsame
    · exact hfault _ _
    · exact hsame.weaken (instrWrites_subset_touches i)

theorem executorTurn_sameBut (ht : executorTurn s = .next t) : SameBut Move.execute.touches s t := by
  obtain ⟨-, ⟨-, rfl⟩ | ⟨-, hrun⟩⟩ := executorTurn_next ht
  · exact .refl _ t
  · exact (s.begin_sameBut.weaken (by simp [Move.touches])).trans (runInstruction_sameBut hrun)

end

/-- Settles O48, by the agent that moves. -/
theorem agentsTouchOnlyTheirParts : Obligations.AgentsTouchOnlyTheirParts := by
  unfold Obligations.AgentsTouchOnlyTheirParts
  intro m s t ht
  rw [moveStep_running m (moveStep_next_running ht)] at ht
  cases m with
  | execute => exact ⟨executorTurn_sameBut ht, by simp⟩
  | tick => cases ht; exact ⟨s.tick_sameBut, by simp⟩
  | keySet k b => cases ht; exact ⟨s.keys_sameBut _, by simp⟩
  | keyPress k => cases ht; exact ⟨s.keyPress_sameBut k, by simp⟩
  | render => cases ht; exact ⟨.refl _ s, by simp⟩
  | reset => cases ht; exact ⟨s.applyReset_sameBut, by simp⟩
  | load bytes =>
    obtain ⟨-, hns, rfl⟩ := load_next ht
    exact ⟨s.mem_sameBut _, fun _ _ => hns⟩
  | stop => cases ht; exact ⟨s.stop_sameBut, by simp⟩

/-- Settles O47, by the agent that moves: halted, the executor has no step, a tick and a key press change nothing, and
no load comes, since the executor has started. -/
theorem haltedStateIsFinalUntilReset : Obligations.HaltedStateIsFinalUntilReset := by
  unfold Obligations.HaltedStateIsFinalUntilReset
  intro m s t hinv hh hm ht
  rw [moveStep_running m (moveStep_next_running ht)] at ht
  cases m with
  | execute =>
    obtain ⟨hrunning, -⟩ := executorTurn_next ht
    cases hh.symm.trans hrunning
  | tick => cases ht; rw [State.tick_halted hh]; exact ⟨.refl _ s, rfl, by decide⟩
  | keySet k b => cases ht; exact ⟨(s.keys_sameBut _).weaken (by simp), rfl, by simp⟩
  | keyPress k => cases ht; rw [State.keyPress_dropped k (.inr hh)]; exact ⟨.refl _ s, rfl, by simp⟩
  | render => cases ht; exact ⟨.refl _ s, rfl, by decide⟩
  | reset => exact absurd rfl hm
  | load bytes =>
    obtain ⟨-, hns, -⟩ := load_next ht
    obtain ⟨-, hrunning, -⟩ := hinv.boot hns
    cases hh.symm.trans hrunning
  | stop => cases ht; exact ⟨s.stop_sameBut.weaken (by simp), rfl, by decide⟩

end Sys2Proof.Machine
end

section
/-! PROOFS. The ports of the timer driver, the input source and the random source (spec 60_exceptions.md R250, R251,
R254, R258). -/

namespace Sys2Proof.Machine

/-- Settles O22: the draw is the supplied byte, and RND writes Vx and PC in the state that the draw leaves. -/
theorem rndTakesTheSuppliedByte : Obligations.RndTakesTheSuppliedByte := by
  unfold Obligations.RndTakesTheSuppliedByte
  intro x kk r rest s h
  have hexec : exec (.rnd x kk) s = .next (({ s with rndIn := rest } : State).finish x (r &&& kk)) := by
    simp only [exec, execRnd, State.draw_supplied h]
  exact ⟨_, hexec, State.reg_finish_dest _ x _, rfl, rfl⟩

theorem moveStep_tick {s : State} (h : s.stopped = false) : moveStep .tick s = .next s.tick :=
  moveStep_running .tick h

theorem State.tick_dt_running {s : State} (h : s.halt = false) : s.tick.dt = countDown s.dt := by
  rw [State.tick_dt, h]; rfl

theorem State.tick_st_running {s : State} (h : s.halt = false) : s.tick.st = countDown s.st := by
  rw [State.tick_st, h]; rfl

/-- Settles O38, by whether the core is halted. -/
theorem tickCountsDownToZero : Obligations.TickCountsDownToZero := by
  unfold Obligations.TickCountsDownToZero
  intro s hrun
  refine ⟨s.tick, moveStep_tick hrun, fun hh => ?_, State.tick_halted, s.tick_sameBut⟩
  rw [State.tick_dt_running hh, State.tick_st_running hh]
  exact ⟨countDown_toNat _, countDown_toNat _⟩

/-- Settles O39: the key flags alone are written, at one key. -/
theorem keySetWritesOneFlag : Obligations.KeySetWritesOneFlag := by
  unfold Obligations.KeySetWritesOneFlag
  intro k b s hrun
  exact ⟨_, moveStep_running (.keySet k b) hrun, fun j => s.key_keySet k j b, s.keys_sameBut _⟩

/-! ### The delay timer in a fair run -/

section
variable {moves : Nat → Move} {states : Nat → State} (hrun : IsRun moves states)
  (hrunning : ∀ n, (states n).halt = false)
include hrun hrunning

theorem IsRun.dt_after_tick {m : Nat} (hm : moves m = .tick) :
    (states (m + 1)).dt.toNat = (states m).dt.toNat - 1 := by
  have hstep : moveStep .tick (states m) = .next (states (m + 1)) := hm ▸ hrun m
  have htick : states (m + 1) = (states m).tick :=
    Host.Outcome.next.inj (hstep.symm.trans (moveStep_tick (moveStep_next_running hstep)))
  rw [htick, State.tick_dt_running (hrunning m), countDown_toNat]

/-- By induction on a bound of the timer: the next tick lowers the bound, and nothing raises it before. -/
theorem IsRun.dt_reaches_zero (hticks : ∀ n, ∃ m, n ≤ m ∧ moves m = .tick)
    (hmono : Antitone fun n => (states n).dt.toNat) {b n : Nat} (hb : (states n).dt.toNat ≤ b) :
    ∃ m, (states m).dt = 0x00#8 := by
  induction b generalizing n with
  | zero => exact ⟨n, BitVec.eq_of_toNat_eq (Nat.le_zero.1 hb)⟩
  | succ b ih =>
    obtain ⟨m, hnm, hm⟩ := hticks n
    have hbefore : (states m).dt.toNat ≤ (states n).dt.toNat := hmono hnm
    have hafter : (states (m + 1)).dt.toNat = (states m).dt.toNat - 1 := hrun.dt_after_tick hrunning hm
    exact ih (n := m + 1) (by omega)

end

/-- Settles O40: of the fairness premise, that ticks never end is enough. -/
theorem delayTimerReachesZeroUnderFairness : Obligations.DelayTimerReachesZeroUnderFairness := by
  unfold Obligations.DelayTimerReachesZeroUnderFairness
  intro moves states hrun ⟨hticks, _⟩ hrunning hstep
  exact hrun.dt_reaches_zero hrunning hticks (antitone_nat_of_succ_le hstep) (n := 0) le_rfl

end Sys2Proof.Machine
end

section
/-! PROOFS. Reset, load and stop, and when and how the executor steps (spec 70_reset_and_hazards.md R270 to R281): what
the reset contents of memory are, what each controller's move answers, and that an enabled executor's turn completes. -/

namespace Sys2Proof.Machine

/-! ### The reset state -/

/-- FONT fills 0x000 to 0x04F, whatever its bytes are (R66). -/
theorem font_length : Config.font.length = 80 := rfl

theorem Memory.unlisted_font {a : Nat} (h : a < 80) : some (Memory.unlisted a) = Config.font[a]? := by
  have hfont : a < Config.font.length := by rwa [font_length]
  rw [Memory.unlisted, List.getD_eq_getElem _ _ hfont, List.getElem?_eq_getElem hfont]

theorem Memory.unlisted_above_font {a : Nat} (h : 80 ≤ a) : Memory.unlisted a = 0x00#8 :=
  List.getD_eq_default _ _ (by rwa [font_length])

section
variable (k : Index16)

theorem State.reset_reg : State.reset.reg k = 0x00#8 := Vector.getElem_replicate k.isLt

theorem State.reset_stack : State.reset.stack[k] = 0x0000#16 := Vector.getElem_replicate k.isLt

theorem State.reset_key : State.reset.key k = false := Vector.getElem_replicate k.isLt

end

/-- Settles O1, row by row of the table: the display is the cleared one, and memory lists no cell, so that every address
reads as its reset contents. -/
theorem resetHoldsItsTableOfValues : Obligations.ResetHoldsItsTableOfValues := by
  unfold Obligations.ResetHoldsItsTableOfValues
  have hfont (a : Nat) (ha : a ≤ 0x04F) : some (State.reset.mem.read a) = Config.font[a]? :=
    Memory.unlisted_font (by omega)
  have habove (a : Nat) (ha : 0x050 ≤ a) (_ : a ≤ 0xFFF) : State.reset.mem.read a = 0x00#8 :=
    Memory.unlisted_above_font ha
  exact ⟨State.reset_reg, rfl, rfl, State.reset_stack, rfl, rfl, rfl, Display.cell_clear, State.reset_key, rfl, rfl, rfl,
    rfl, rfl, rfl, font_length, hfont, habove⟩

/-- Settles O57: nothing is halted at reset, so there is no record to explain. -/
theorem resetMeetsTheInvariants : Obligations.ResetMeetsTheInvariants :=
  ⟨State.reset_inv, .of_running rfl⟩

/-! ### Reset, load and stop -/

theorem State.sched_sameBut (s : State) (moves : List Move) : SameBut [.sched] s { s with sched := moves } := by
  intro p hp
  cases p <;> simp_all [Part.same, State.key, State.reg]

/-- The reset move leaves the reset state but for the environment's schedule and random source (R36, R270). -/
theorem State.reset_sameBut_applyReset (s : State) : SameBut [.sched, .rnd] State.reset s.applyReset :=
  (State.reset.sched_sameBut s.sched).append (State.rnd_sameBut _ s.rndIn s.draws)

theorem environment_not_mem_coreParts : ∀ p ∈ coreParts, p ∉ [Part.sched, Part.rnd] := by decide

/-- Settles O2: the environment's parts, which the reset move keeps, are no parts of the core. -/
theorem resetMoveRestoresEveryCorePart : Obligations.ResetMoveRestoresEveryCorePart := by
  unfold Obligations.ResetMoveRestoresEveryCorePart
  intro s hrun
  exact ⟨s.applyReset, moveStep_running .reset hrun, rfl,
    fun p hp => s.reset_sameBut_applyReset p (environment_not_mem_coreParts p hp)⟩

section
variable {s : State} {bytes : List Byte}

theorem State.load_tooLarge (h : 3584 < bytes.length) : s.load bytes = .refused .loadTooLarge := if_pos h

theorem State.load_afterStart (h : bytes.length ≤ 3584) (hs : s.started = true) :
    s.load bytes = .refused .loadAfterStart :=
  (if_neg (Nat.not_lt.2 h)).trans (if_pos hs)

theorem State.load_fits (h : bytes.length ≤ 3584) (hs : s.started = false) :
    s.load bytes = .next { s with mem := s.mem.writeList 0x200 bytes } :=
  (if_neg (Nat.not_lt.2 h)).trans (if_neg (by simp [hs]))

end

/-- Settles O3, by the size and the start: a load that is not refused stores one list of bytes, which fits in memory. -/
theorem loadCopiesTheProgramOrIsRefused : Obligations.LoadCopiesTheProgramOrIsRefused := by
  unfold Obligations.LoadCopiesTheProgramOrIsRefused
  intro s bytes hrun hwf
  have hmove : moveStep (.load bytes) s = s.load bytes := moveStep_running (.load bytes) hrun
  rw [hmove]
  refine ⟨State.load_tooLarge, fun hsize hns => ?_, State.load_afterStart⟩
  have hfits : 0x200 + bytes.length ≤ Config.memSize := by simp only [Config.memSize]; omega
  exact ⟨_, State.load_fits hsize hns, fun j hj => Memory.read_writeList_inside hwf hfits hj,
    fun a ha => Memory.read_writeList_outside hwf hfits ha, s.mem_sameBut _⟩

/-- Settles O4: the stop writes the mark of a stopped run alone, and that mark refuses every move. -/
theorem stopLeavesTheStateAndEndsTheRun : Obligations.StopLeavesTheStateAndEndsTheRun := by
  unfold Obligations.StopLeavesTheStateAndEndsTheRun
  intro s hrun
  exact ⟨s.stop, moveStep_running .stop hrun, s.stop_sameBut, rfl, fun m => moveStep_stopped m rfl⟩

/-! ### The executor's step -/

section
variable {s : State}

theorem executorTurn_halted (h : s.halt = true) : executorTurn s = .fault (.halted s.fcause s.fpc s.fword s.faddr) :=
  if_pos h

theorem executorTurn_waiting (hh : s.halt = false) (hw : s.wait.isSome = true) : executorTurn s = .next s :=
  (if_neg (by simp [hh])).trans (if_pos hw)

theorem runInstruction_decode_ok {w : Word} {i : Instr} (hf : s.fetch = some w) (hd : decodeWord w = .ok i) :
    runInstruction s = exec i s := by
  simp only [runInstruction, hf, hd]

end

theorem run_not_mem_instrWrites (i : Instr) : Part.run ∉ instrWrites i := by
  cases i <;> simp [instrWrites]

/-- Every instruction completes in every state, with fault entry or with the writes of its parts, and none of them is of
the marks of the run. -/
theorem exec_completes (i : Instr) (s : State) : Completes i s fun t => t.started = s.started := by
  cases hf : instrFault i s with
  | some c => exact ⟨_, (exec_of_instrFault hf).1, rfl⟩
  | none =>
    have hwrites := instructionsWriteOnlyTheirParts
    unfold Obligations.InstructionsWriteOnlyTheirParts at hwrites
    obtain ⟨t, hexec, hsame⟩ := hwrites i s hf
    obtain ⟨hstarted, -⟩ := hsame .run (run_not_mem_instrWrites i)
    exact ⟨t, hexec, hstarted⟩

theorem runInstruction_completes (s : State) : ∃ t, runInstruction s = .next t ∧ t.started = s.started := by
  rcases runInstruction_cases s with ⟨-, hrun⟩ | ⟨w, e, -, -, hrun⟩ | ⟨w, i, -, -, hrun⟩
  · exact ⟨_, hrun, rfl⟩
  · exact ⟨_, hrun, rfl⟩
  · rw [hrun]
    exact exec_completes i s

/-- Settles O44, by whether the run is stopped, the core halted or waiting, or the executor enabled. -/
theorem executorHasAStepExactlyWhenEnabled : Obligations.ExecutorHasAStepExactlyWhenEnabled := by
  unfold Obligations.ExecutorHasAStepExactlyWhenEnabled
  intro s
  refine ⟨fun hstopped m => moveStep_stopped m hstopped, fun hrun hh => ?halted, fun hrun hh hw => ?waiting,
    fun he => ?enabled⟩
  case halted => exact (moveStep_running .execute hrun).trans (executorTurn_halted hh)
  case waiting => exact (moveStep_running .execute hrun).trans (executorTurn_waiting hh hw)
  case enabled =>
    rw [moveStep_execute_enabled he]
    exact runInstruction_completes s.begin

/-- Two bytes that decode are those of a word that decodes (R65, R92). -/
theorem decodeWord_of_decodeBytes {hi lo : Byte} {i : Instr} (h : decodeBytes [hi, lo] = .ok (i, [])) :
    decodeWord (wordOfBytes hi lo) = .ok i := by
  simp only [decodeBytes] at h
  cases hd : decodeWord (wordOfBytes hi lo) with
  | ok j => rw [hd] at h; cases h; rfl
  | error e => rw [hd] at h; cases h

/-- Settles O41: the turn fetches the word of the two bytes at PC, which is the word decoded. -/
theorem stepRunsTheDecodedInstruction : Obligations.StepRunsTheDecodedInstruction := by
  unfold Obligations.StepRunsTheDecodedInstruction
  intro s i hmove he hpc hd
  calc step s
    _ = moveStep .execute s.takeMove := by rw [step_eq, hmove]
    _ = runInstruction s.takeMove.begin := moveStep_execute_enabled he
    _ = exec i s.takeMove.begin := runInstruction_decode_ok (State.fetch_inRange hpc) (decodeWord_of_decodeBytes hd)

/-- In a parked state the word at PC is a JP to PC, so the step marks its beginning and changes nothing else (R280). -/
theorem State.parkedAt.moveStep_execute {s : State} {p : Word} (h : s.parkedAt p) (he : s.executorEnabled = true) :
    moveStep .execute s = .next s.begin := by
  obtain ⟨hpc, nnn, hf, htarget⟩ := h
  calc moveStep .execute s
    _ = runInstruction s.begin := moveStep_execute_enabled he
    _ = exec (.jp nnn) s.begin := runInstruction_decode_ok hf (decodeWord_encodeWord (i := .jp nnn) rfl)
    _ = .next (s.begin.jump s.pc) := by rw [hpc, ← htarget]; rfl
    _ = .next s.begin := rfl

/-- Settles O49: the step changes the mark of the start alone, and a parked state does not speak of it. -/
theorem parkedStateKeepsEverything : Obligations.ParkedStateKeepsEverything := by
  unfold Obligations.ParkedStateKeepsEverything
  intro s p h he
  obtain ⟨-, -, hrun⟩ := (executorEnabled_iff s).1 he
  exact ⟨s.begin, h.moveStep_execute he, s.begin_sameBut, hrun, h⟩

end Sys2Proof.Machine
end
